-- ==== Sys2Proof/Word.lean ====
section
/-! DEFINITION. The word types of CA1-CORE (00_scope.md R5, R6). -/

namespace Sys2Proof

/-- A Cell, "an 8-bit unsigned value (0–255)": the unit of memory and of every register but PC (10_state.md R10). -/
abbrev Cell := BitVec 8

/-- The value of PC: `log2(C)` bits, 8 for `C = 256` (00_scope.md R5, 10_state.md R13). -/
abbrev Address := BitVec 8

/-- The number of a general register, R0 to R7 (10_state.md R10). -/
abbrev Reg := Fin 8

end Sys2Proof
end

