-- ==== Sys2Proof/Config.lean ====
section
/-! DEFINITION. The construction parameters of 00_scope.md R4, at the values this hardware takes.
The opcode bytes `OPC_*`, also parameters of R4, stand in Decode.lean. -/

namespace Sys2Proof

/-- `C`, the number of Cells of memory: 256 (00_scope.md R4; DESIGN CHOICE of the spec, decision D6, log 4). -/
abbrev Config.capacity : Nat := 256

/-- `SP_INIT`, the value of SP after reset: 0xF4 (00_scope.md R4, 10_state.md R24). -/
abbrev Config.spInit : Cell := 0xF4#8

/-- What a memory Cell that nothing has written reads as: 0x00
(70_reset_and_hazards.md R171; DESIGN CHOICE, unsafe: decision D11, log 9). -/
abbrev Config.unlistedCell : Cell := 0x00#8

end Sys2Proof
end

