-- ==== Sys2Proof/Syntax.lean ====
section
/-! DEFINITION. The eleven instructions (30_encoding.md R66), one constructor per row of the opcode table. -/

namespace Sys2Proof

/-- An instruction with its operand bytes `a` and `b` as a handler receives them, "raw Cells from memory"
(30_encoding.md R62, R64; 40_cycle.md R87). Which register a byte selects is `Machine.rsel`;
keeping all eight bits is a DESIGN CHOICE of the model (log 18). -/
inductive Instr where
  /-- NOP (R100) -/
  | nop
  /-- HLT (R101) -/
  | hlt
  /-- LDI ra, imm8 (R105): `a` names ra, `b` is the immediate -/
  | ldi (a b : Cell)
  /-- ADD ra, rb (R112) -/
  | add (a b : Cell)
  /-- MUL ra, rb (R113) -/
  | mul (a b : Cell)
  /-- CMP ra, rb (R114) -/
  | cmp (a b : Cell)
  /-- PRN ra (R120) -/
  | prn (a : Cell)
  /-- PUSH ra (R126) -/
  | push (a : Cell)
  /-- POP ra (R127) -/
  | pop (a : Cell)
  /-- CALL ra (R135) -/
  | call (a : Cell)
  /-- RET (R136) -/
  | ret
deriving DecidableEq, Repr

end Sys2Proof
end

