-- ==== Sys2Proof/WellFormed.lean ====
section
/-! DEFINITION. Well-formed instructions: those an assembler writes down (30_encoding.md R71).
The hardware executes the other terms as well, like their canonical form (R64, R69): nothing traps on an operand byte. -/

namespace Sys2Proof

/-- A register operand as R71 assembles it: `R0` to `R7` are the bytes 0x00 to 0x07, bits 7:3 zero. -/
def assembledRegByte (a : Cell) : Bool := a.toNat < 8

/-- The byte R71 assembles a register's name to. -/
def regByte (r : Reg) : Cell := BitVec.ofNat 8 r.val

/-- Every register operand byte is in the assembled form of R71; an immediate is any Cell (R65). -/
def Instr.wellFormed : Instr → Bool
  | .nop | .hlt | .ret => true
  | .ldi a _ => assembledRegByte a
  | .add a b | .mul a b | .cmp a b => assembledRegByte a && assembledRegByte b
  | .prn a | .push a | .pop a | .call a => assembledRegByte a

/-- The instruction with the ignored bits of its register operand bytes cleared (30_encoding.md R64, R69). -/
def Instr.canonical : Instr → Instr
  | .nop => .nop
  | .hlt => .hlt
  | .ldi a b => .ldi (a &&& 0x07#8) b
  | .add a b => .add (a &&& 0x07#8) (b &&& 0x07#8)
  | .mul a b => .mul (a &&& 0x07#8) (b &&& 0x07#8)
  | .cmp a b => .cmp (a &&& 0x07#8) (b &&& 0x07#8)
  | .prn a => .prn (a &&& 0x07#8)
  | .push a => .push (a &&& 0x07#8)
  | .pop a => .pop (a &&& 0x07#8)
  | .call a => .call (a &&& 0x07#8)
  | .ret => .ret

end Sys2Proof
end

