-- ==== Sys2Proof/Decode.lean ====
section
/-! DEFINITION. The decoder and the dispatch lookup (40_cycle.md R80 to R83), and the encoder (30_encoding.md R62, R66). -/

namespace Sys2Proof

/-- Operand count, bits 7:6 of the opcode byte: `(opcode >> 6) & 0b11` (40_cycle.md R80, 30_encoding.md R61). -/
def operandCount (op : Cell) : Nat := ((op >>> 6) &&& 0b11#8).toNat

/-- PC control, bit 4 of the opcode byte: `(opcode >> 4) & 0b1` (40_cycle.md R81, 30_encoding.md R61).
Bit 5 has no decoded meaning (DEDUCED, decision D2 and conflict C1, log 19). -/
def setsPcItself (op : Cell) : Bool := ((op >>> 4) &&& 0b1#8) == 1#8

/-- The instruction identifier, bits 3:0 of the opcode byte; not unique by itself (30_encoding.md R61). -/
def opcodeId (op : Cell) : Nat := (op &&& 0b1111#8).toNat

/-- The names of the eleven handlers of the dispatch table (40_cycle.md R83). -/
inductive Mnemonic where
  | nop | hlt | ldi | add | mul | cmp | prn | push | pop | call | ret
deriving DecidableEq, Repr

/-- The dispatch table's entries, in the order of 30_encoding.md R66. -/
def Mnemonic.all : List Mnemonic :=
  [.nop, .hlt, .ldi, .add, .mul, .cmp, .prn, .push, .pop, .call, .ret]

/-- `OPC_<mnemonic>`, the opcode byte (30_encoding.md R66). The byte values are PRESUMED: not in the source, taken by
the spec from general knowledge of the teaching ISA (decision D1, log 1). -/
def Mnemonic.byte : Mnemonic → Cell
  | .nop  => 0x00#8
  | .hlt  => 0x01#8
  | .ldi  => 0x82#8
  | .add  => 0xA0#8
  | .mul  => 0xA2#8
  | .cmp  => 0xA7#8
  | .prn  => 0x47#8
  | .push => 0x45#8
  | .pop  => 0x46#8
  | .call => 0x50#8
  | .ret  => 0x11#8

/-- The dispatcher: the handler whose opcode byte equals `op` in all eight bits, or `none` for NotFound
(40_cycle.md R83, 30_encoding.md R70). -/
def lookup (op : Cell) : Option Mnemonic := Mnemonic.all.find? fun m => m.byte == op

/-- An instruction of format F1 from the bytes after its opcode, and the bytes left (30_encoding.md R62). -/
def operand1 (f : Cell → Instr) : List Cell → Option (Instr × List Cell)
  | a :: rest => some (f a, rest)
  | [] => none

/-- An instruction of format F2 from the bytes after its opcode, and the bytes left (30_encoding.md R62). -/
def operand2 (f : Cell → Cell → Instr) : List Cell → Option (Instr × List Cell)
  | a :: b :: rest => some (f a b, rest)
  | _ => none

/-- The instruction of a handler from the bytes after its opcode byte, and the bytes left (30_encoding.md R62, R66);
`none` if there are too few bytes. -/
def Mnemonic.build : Mnemonic → List Cell → Option (Instr × List Cell)
  | .nop, rest  => some (.nop, rest)
  | .hlt, rest  => some (.hlt, rest)
  | .ldi, rest  => operand2 .ldi rest
  | .add, rest  => operand2 .add rest
  | .mul, rest  => operand2 .mul rest
  | .cmp, rest  => operand2 .cmp rest
  | .prn, rest  => operand1 .prn rest
  | .push, rest => operand1 .push rest
  | .pop, rest  => operand1 .pop rest
  | .call, rest => operand1 .call rest
  | .ret, rest  => some (.ret, rest)

/-- Why a byte string is no instruction. -/
inductive DecodeError where
  /-- there is no opcode byte -/
  | noBytes
  /-- the byte has no registered handler (30_encoding.md R68) -/
  | invalidOpcode (op : Cell)
  /-- the string ends before the operands of `op` do; the cycle's own fetch never meets this (log 25) -/
  | truncated (op : Cell)
deriving DecidableEq, Repr

/-- What the decoder reads from a byte string: an instruction and the bytes after it, or a rejection by name. -/
inductive Decoded where
  | instr (i : Instr) (rest : List Cell)
  | rejected (e : DecodeError)
deriving DecidableEq, Repr

/-- The decoder over a byte string, opcode byte first, operands in ascending address order
(30_encoding.md R60, R62; 20_memory.md R44). -/
def decode : List Cell → Decoded
  | [] => .rejected .noBytes
  | op :: rest =>
    match lookup op with
    | none => .rejected (.invalidOpcode op)
    | some m =>
      match m.build rest with
      | some (i, rest') => .instr i rest'
      | none => .rejected (.truncated op)

/-- The longest instruction, in Cells (30_encoding.md R60). -/
def longestInstr : Nat := 3

/-- The bytes of an instruction given as one number, bit 0 the least significant bit of the first byte:
its low `nbits` bits, the bits above them zero, up to the longest instruction. -/
def tableWordBytes (nbits w : Nat) : List Cell :=
  (List.range longestInstr).map fun k => BitVec.ofNat 8 ((w % 2 ^ nbits) >>> (8 * k))

/-- The instruction the decoder reads from a table word. -/
def decodeTableWord (nbits w : Nat) : Option Instr :=
  match decode (tableWordBytes nbits w) with
  | .instr i _ => some i
  | .rejected _ => none

/-! ## The encoder -/

/-- The handler an instruction is dispatched to. -/
def Instr.mnemonic : Instr → Mnemonic
  | .nop => .nop
  | .hlt => .hlt
  | .ldi _ _ => .ldi
  | .add _ _ => .add
  | .mul _ _ => .mul
  | .cmp _ _ => .cmp
  | .prn _ => .prn
  | .push _ => .push
  | .pop _ => .pop
  | .call _ => .call
  | .ret => .ret

/-- The operand bytes of an instruction, in ascending address order (30_encoding.md R62). -/
def Instr.operandBytes : Instr → List Cell
  | .nop | .hlt | .ret => []
  | .ldi a b | .add a b | .mul a b | .cmp a b => [a, b]
  | .prn a | .push a | .pop a | .call a => [a]

/-- The Cells of an instruction: opcode byte, then operand bytes (30_encoding.md R62, R66, R71). -/
def encode (i : Instr) : List Cell := i.mnemonic.byte :: i.operandBytes

/-- The Cells of a program written as a list of instructions (30_encoding.md R71). -/
def assemble (p : List Instr) : List Cell := p.flatMap encode

end Sys2Proof
end

