-- ==== Sys2Proof/Machine/State.lean ====
section
/-! DEFINITION. The state of CA1-CORE as plain data (10_state.md R10 to R24, 20_memory.md R40), the reasons a step can
stop, and the state after reset. -/

namespace Sys2Proof.Machine

/-- RUN: Running, or Halted, which is terminal (10_state.md R20). -/
inductive RunState where
  | running
  | halted
deriving DecidableEq, Repr

/-- What FAULT records: the one condition, with the PC and the raw opcode byte (10_state.md R21, 60_exceptions.md R151). -/
inductive FaultRecord where
  | invalidOpcode (pc : Address) (op : Cell)
deriving DecidableEq, Repr

/-- Memory as the list of the Cells that differ from `Config.unlistedCell`, by rising address below `C`
(the canonical form is `Memory.wf` of Ops.lean; 20_memory.md R40). -/
abbrev Memory := List Host.Cell

/-- The whole state: 10_state.md R23 says there is no other. -/
structure State where
  /-- R0 to R7 (10_state.md R10) -/
  regs : Vector Cell 8
  /-- PC, the address of the next opcode byte (10_state.md R13) -/
  pc : Address
  /-- IR, the last fetched opcode byte (10_state.md R15) -/
  ir : Cell
  /-- FL: bit 0 E, bit 1 G, bit 2 L (10_state.md R16; positions PRESUMED, log 7) -/
  fl : Cell
  /-- SP, a register of its own, not R7 (10_state.md R17, R18; decision D4, log 3) -/
  sp : Cell
  /-- RUN (10_state.md R20) -/
  run : RunState
  /-- FAULT (10_state.md R21; log 16) -/
  fault : Option FaultRecord
  /-- OUT, the Cells emitted so far, oldest first (10_state.md R22; log 15) -/
  out : List Cell
  /-- M (20_memory.md R40) -/
  mem : Memory
deriving DecidableEq, Repr

/-- No instruction and no fetch stops the model with a fault: the one fatal condition of the hardware, InvalidOpcode, is a
next state with RUN and FAULT written (60_exceptions.md R150 to R152; log 12). So this type has no constructor. -/
inductive Fault where
deriving DecidableEq, Repr

/-- Why the model gives no meaning. -/
inductive Refusal where
  /-- raised by an arm of `exec` whose instruction has no meaning yet; safe. No arm of this model raises it. -/
  | notModelled (mnemonic : String)
deriving DecidableEq, Repr

/-- The outcome of one step of this machine. -/
abbrev Result := Host.Outcome State Fault Refusal

/-- Construction of the machine from its inputs `SP_INIT` and a memory (10_state.md R24, R35; 70_reset_and_hazards.md R170).
The zeros of the general registers, IR and FL are a DESIGN CHOICE of the spec (decision D8, log 6);
PC = 0 is DEDUCED by it (decision D7, log 5). -/
def State.construct (spInit : Cell) (mem : Memory) : State where
  regs := Vector.replicate 8 0x00#8
  pc := 0x00#8
  ir := 0x00#8
  fl := 0x00#8
  sp := spInit
  run := .running
  fault := none
  out := []
  mem := mem

/-- The machine right after reset, no memory Cell listed (10_state.md R24; 70_reset_and_hazards.md R171, log 9). -/
def State.reset : State := State.construct Config.spInit []

end Sys2Proof.Machine
end

