-- ==== Sys2Proof/Machine/Ops.lean ====
section
/-! DEFINITION. The named operations over memory and registers, the writes of PC, and taking the one exception. -/

namespace Sys2Proof.Machine

/-! ## The memory port (20_memory.md R40 to R43) -/

/-- The Cell an address presented to the memory names: "any integer address is accepted and wraps silently",
`address AND (C-1)` (20_memory.md R40). On integers that is the non-negative remainder (log 24). -/
def normalise (addr : Int) : Nat := (addr % (Config.capacity : Int)).toNat

/-- The Cell at a normalised address of a memory list. -/
def Memory.cellAt : Memory → Nat → Cell
  | [], _ => Config.unlistedCell
  | (k, v) :: m, a => if k = a then v else Memory.cellAt m a

/-- A memory list with the Cell at a normalised address replaced, kept in canonical form. -/
def Memory.put : Memory → Nat → Cell → Memory
  | [], a, v => if v = Config.unlistedCell then [] else [(a, v)]
  | (k, w) :: m, a, v =>
    if a < k then
      if v = Config.unlistedCell then (k, w) :: m else (a, v) :: (k, w) :: m
    else if a = k then
      if v = Config.unlistedCell then m else (a, v) :: m
    else (k, w) :: Memory.put m a v

/-- `MemRead(addr, 1)` (20_memory.md R41). -/
def Memory.read (m : Memory) (addr : Int) : Cell := m.cellAt (normalise addr)

/-- `MemWrite(addr, 1, v)`: `M[addr AND (C-1)] <- v AND 255` (20_memory.md R42). -/
def Memory.write (m : Memory) (addr : Int) (v : Nat) : Memory :=
  m.put (normalise addr) (BitVec.ofNat 8 (v &&& 255))

/-- The canonical form: addresses strictly rising, all below `C`, no entry equal to what an unlisted address reads as. -/
abbrev Memory.wf (m : Memory) : Prop :=
  m.Pairwise (fun p q => p.1 < q.1) ∧ ∀ p ∈ m, p.1 < Config.capacity ∧ p.2 ≠ Config.unlistedCell

/-- Cells written at ascending addresses from `addr` on (70_reset_and_hazards.md R175). -/
def Memory.writeCells : Memory → Int → List Cell → Memory
  | m, _, [] => m
  | m, addr, v :: vs => Memory.writeCells (m.write addr v.toNat) (addr + 1) vs

/-! ## Registers -/

/-- Read of a general register (10_state.md R10, R12). -/
def State.getReg (s : State) (r : Reg) : Cell := s.regs[r]

/-- Write of a general register (10_state.md R12). -/
def State.setReg (s : State) (r : Reg) (v : Cell) : State := { s with regs := s.regs.set r.val v r.isLt }

/-- A push: pre-decrement of SP mod 256, then one Cell written at the new SP
(45_stack.md R125; 10_state.md R19, log 20). -/
def State.push (s : State) (v : Nat) : State :=
  { s with sp := s.sp - 1#8, mem := s.mem.write (s.sp - 1#8).toNat v }

/-- The Cell a pop reads: the one at SP before the increment (45_stack.md R125). -/
def State.top (s : State) : Cell := s.mem.read s.sp.toNat

/-- A pop's post-increment of SP mod 256 (45_stack.md R125; 10_state.md R19, log 20). -/
def State.dropTop (s : State) : State := { s with sp := s.sp + 1#8 }

/-- `Emit(v)` (44_prn.md R121). -/
def State.emit (s : State) (v : Cell) : State := { s with out := s.out ++ [v] }

/-- RUN becomes Halted (41_nop_hlt.md R101). -/
def State.halt (s : State) : State := { s with run := .halted }

/-! ## Step 6 of the cycle: the writes of PC (40_cycle.md R88) -/

/-- `PC <- (pc0 + n + 1) mod C`, for an instruction that does not set PC itself
(10_state.md R14(a); the reduction is decision D7, log 5). -/
def State.autoAdvance (s : State) (n : Nat) : State :=
  { s with pc := BitVec.ofNat 8 ((s.pc.toNat + n + 1) % Config.capacity) }

/-- `PC <- t AND (C-1)`, with no operand-count increment (40_cycle.md R88). -/
def State.jump (s : State) (t : Cell) : State :=
  { s with pc := BitVec.ofNat 8 (t.toNat &&& (Config.capacity - 1)) }

/-! ## The exception -/

/-- `raise InvalidOpcode(pc0, op)`: RUN becomes Halted and FAULT records the pair; nothing else changes and control goes
nowhere (60_exceptions.md R150, R156). There is no return from it to stand beside it (R157). -/
def State.raiseInvalidOpcode (s : State) (pc0 : Address) (op : Cell) : State :=
  { s with run := .halted, fault := some (.invalidOpcode pc0 op) }

end Sys2Proof.Machine
end

