-- ==== Sys2Proof/Machine/Operands.lean ====
section
/-! DEFINITION. The two operand forms (30_encoding.md R64, R65). -/

namespace Sys2Proof.Machine

/-- `rsel(byte) = byte[2:0]`: the register a register operand byte selects; bits 7:3 are ignored
(30_encoding.md R64; DESIGN CHOICE of the spec, decision D3, log 2). -/
def rsel (byte : Cell) : Reg := ⟨(byte.extractLsb' 0 3).toNat, (byte.extractLsb' 0 3).isLt⟩

/-- `x[byte[2:0]]`, the value of a register operand. -/
def State.regOperand (s : State) (byte : Cell) : Cell := s.getReg (rsel byte)

/-- The immediate operand, `value AND 255`: the byte as it stands (30_encoding.md R65, 42_ldi.md R105). -/
def immOperand (byte : Cell) : Cell := byte &&& 255#8

end Sys2Proof.Machine
end

