-- ==== Sys2Proof/Machine/Flags.lean ====
section
/-! DEFINITION. The flags register FL and the one flag computation (10_state.md R16, 43_alu.md R110, R114).
The bit positions are PRESUMED: the spec takes them from general knowledge (decision D9, log 7). -/

namespace Sys2Proof.Machine

/-- `FL.E`, the Equal bit. -/
def flagE (fl : Cell) : Bool := fl.getLsbD 0

/-- `FL.G`, the Greater bit. -/
def flagG (fl : Cell) : Bool := fl.getLsbD 1

/-- `FL.L`, the Less bit. -/
def flagL (fl : Cell) : Bool := fl.getLsbD 2

/-- The ALU's flag update: a new value for each flag it includes (`flagsDelta`, 43_alu.md R110). -/
structure FlagsDelta where
  equal : Option Bool
  greater : Option Bool
  less : Option Bool
deriving DecidableEq, Repr

/-- The flag update of CMP: `E := 1 if valueA = valueB else 0`; L and G are not included
(43_alu.md R110, R114; decision D10, log 8). -/
def compareFlags (va vb : Cell) : FlagsDelta := ⟨some (va == vb), none, none⟩

/-- One bit of FL set, cleared or kept. -/
def putFlag (fl : Cell) (bit : Nat) : Option Bool → Cell
  | none => fl
  | some true => fl ||| (1#8 <<< bit)
  | some false => fl &&& ~~~(1#8 <<< bit)

/-- FL after a flag update; bits it does not include, and bits 7:3, keep their values. -/
def applyFlags (fl : Cell) (d : FlagsDelta) : Cell :=
  putFlag (putFlag (putFlag fl 0 d.equal) 1 d.greater) 2 d.less

/-- Write of FL. -/
def State.setFl (s : State) (fl : Cell) : State := { s with fl := fl }

end Sys2Proof.Machine
end

