-- ==== Sys2Proof/Machine/Alu.lean ====
section
/-! DEFINITION. The ALU block and its instructions ADD, MUL, CMP (43_alu.md R110 to R115). -/

namespace Sys2Proof.Machine

/-- The ALU's operations, a closed set (43_alu.md R111; decision D28, log 22). -/
inductive AluOp where
  | add | mul | cmp
deriving DecidableEq, Repr

/-- What the ALU returns: `(result: Cell option, flagsDelta: FlagSet option)` (43_alu.md R110). -/
structure AluOutput where
  result : Option Cell
  flagsDelta : Option FlagsDelta
deriving DecidableEq, Repr

/-- `apply(operation, valueA, valueB)`, the table of 43_alu.md R110: exact, then reduced mod 256. -/
def alu : AluOp → Cell → Cell → AluOutput
  | .add, va, vb => ⟨some (BitVec.ofNat 8 ((va.toNat + vb.toNat) % 256)), none⟩
  | .mul, va, vb => ⟨some (BitVec.ofNat 8 ((va.toNat * vb.toNat) % 256)), none⟩
  | .cmp, va, vb => ⟨none, some (compareFlags va vb)⟩

/-- Write-back of what the ALU returns: the result to a register when there is one, the flag update to FL when there is one
(43_alu.md R110). -/
def State.writeBack (s : State) (r : Reg) (o : AluOutput) : State :=
  let s1 := match o.result with
    | some v => s.setReg r v
    | none => s
  match o.flagsDelta with
  | some d => s1.setFl (applyFlags s1.fl d)
  | none => s1

/-- An ALU handler: reads `x[a[2:0]]` and `x[b[2:0]]`, applies the ALU, writes back (43_alu.md R110).
Both reads precede the write (40_cycle.md R90; log 21). -/
def State.aluHandler (s : State) (op : AluOp) (a b : Cell) : State :=
  s.writeBack (rsel a) (alu op (s.regOperand a) (s.regOperand b))

/-- ADD: `x[a[2:0]] <- (va + vb) mod 256 ; PC <- (PC + 3) mod C` (R112). -/
def execAdd (a b : Cell) (s : State) : Result := .next ((s.aluHandler .add a b).autoAdvance 2)

/-- MUL: `x[a[2:0]] <- (va * vb) mod 256 ; PC <- (PC + 3) mod C` (R113). -/
def execMul (a b : Cell) (s : State) : Result := .next ((s.aluHandler .mul a b).autoAdvance 2)

/-- CMP: `FL.E <- 1 if va = vb else 0 ; PC <- (PC + 3) mod C` (R114). -/
def execCmp (a b : Cell) (s : State) : Result := .next ((s.aluHandler .cmp a b).autoAdvance 2)

end Sys2Proof.Machine
end

