-- ==== Sys2Proof/Machine/CallRet.lean ====
section
/-! DEFINITION. CALL and RET (46_call_ret.md R135, R136). The handler produces the target, the engine writes PC
(40_cycle.md R88; decision D27, log 21). -/

namespace Sys2Proof.Machine

/-- The return address CALL pushes, `(PC + 2) mod 256` (R135; decision D16, log 14). -/
def State.returnAddress (s : State) : Nat := (s.pc.toNat + 2) % 256

/-- CALL: `SP <- (SP - 1) mod 256 ; MemWrite(SP, 1, (PC + 2) mod 256) ; PC <- x[a[2:0]] AND (C-1)` (R135). -/
def execCall (a : Cell) (s : State) : Result := .next ((s.push s.returnAddress).jump (s.regOperand a))

/-- RET: `t <- MemRead(SP, 1) ; SP <- (SP + 1) mod 256 ; PC <- t AND (C-1)` (R136). -/
def execRet (s : State) : Result := .next (s.dropTop.jump s.top)

end Sys2Proof.Machine
end

