-- ==== Sys2Proof/Machine/Ldi.lean ====
section
/-! DEFINITION. LDI (42_ldi.md R105). -/

namespace Sys2Proof.Machine

/-- LDI: `x[a[2:0]] <- b AND 255 ; PC <- (PC + 3) mod C` (R105). -/
def execLdi (a b : Cell) (s : State) : Result :=
  .next ((s.setReg (rsel a) (immOperand b)).autoAdvance 2)

end Sys2Proof.Machine
end

