-- ==== Sys2Proof/Machine/NopHlt.lean ====
section
/-! DEFINITION. NOP and HLT (41_nop_hlt.md R100, R101). -/

namespace Sys2Proof.Machine

/-- NOP: no handler effect; `PC <- (PC + 1) mod C` (R100). -/
def execNop (s : State) : Result := .next (s.autoAdvance 0)

/-- HLT: `RUN <- Halted`; PC still advances (R101; 40_cycle.md R89, decision D13, log 11). -/
def execHlt (s : State) : Result := .next (s.halt.autoAdvance 0)

end Sys2Proof.Machine
end

