-- ==== Sys2Proof/Machine/Print.lean ====
section
/-! DEFINITION. PRN (44_prn.md R120). -/

namespace Sys2Proof.Machine

/-- PRN: `Emit(x[a[2:0]]) ; PC <- (PC + 2) mod C` (R120). -/
def execPrn (a : Cell) (s : State) : Result := .next ((s.emit (s.regOperand a)).autoAdvance 1)

end Sys2Proof.Machine
end

