-- ==== Sys2Proof/Machine/Stack.lean ====
section
/-! DEFINITION. PUSH and POP (45_stack.md R126, R127). -/

namespace Sys2Proof.Machine

/-- PUSH: `SP <- (SP - 1) mod 256 ; MemWrite(SP, 1, x[a[2:0]]) ; PC <- (PC + 2) mod C` (R126). -/
def execPush (a : Cell) (s : State) : Result := .next ((s.push (s.regOperand a).toNat).autoAdvance 1)

/-- POP: `x[a[2:0]] <- MemRead(SP, 1) ; SP <- (SP + 1) mod 256 ; PC <- (PC + 2) mod C` (R127). -/
def execPop (a : Cell) (s : State) : Result := .next ((s.dropTop.setReg (rsel a) s.top).autoAdvance 1)

end Sys2Proof.Machine
end

