-- ==== Sys2Proof/Machine/Fetch.lean ====
section
/-! DEFINITION. Steps 1 to 4 of a cycle: fetch, dispatch, decode, operand fetch (40_cycle.md R84 to R86), the cycle of an
unregistered opcode (R85), and the step request of a halted engine (R91). -/

namespace Sys2Proof.Machine

/-- Step 1: `IR <- MemRead(pc0, 1)` (40_cycle.md R84). -/
def State.latchOpcode (s : State) : State := { s with ir := s.mem.read s.pc.toNat }

/-- Step 4: the `n` operand Cells, `a` at `pc0 + 1` and `b` at `pc0 + 2` (40_cycle.md R86, 20_memory.md R44). -/
def State.operandCells (s : State) (n : Nat) : List Cell :=
  (List.range n).map fun k => s.mem.read ((s.pc.toNat : Int) + 1 + k)

/-- Steps 2 to 4, from a latched IR: the lookup first, then exactly `n = IR[7:6]` operand Cells
(40_cycle.md R85, R86; decision D15, log 13); `none` is NotFound. -/
def State.fetchInstr (s : State) : Option Instr :=
  match lookup s.ir with
  | none => none
  | some m => (m.build (s.operandCells (operandCount s.ir))).map Prod.fst

/-- The cycle of an unregistered opcode, from a latched IR: the exception is taken and the cycle ends
(40_cycle.md R85; decision D14, log 12). -/
def takeInvalidOpcode (s : State) : Result := .next (s.raiseInvalidOpcode s.pc s.ir)

/-- A step request while `RUN = Halted` changes nothing (40_cycle.md R91; decision D12, log 10). -/
def stepHalted (s : State) : Result := .next s

end Sys2Proof.Machine
end

