-- ==== Sys2Proof/Machine/Step.lean ====
section
/-! DEFINITION. One step request, the machine's only transition (40_cycle.md R90; 10_state.md R33). -/

namespace Sys2Proof.Machine

/-- One whole fetch-decode-execute cycle, or nothing when halted (40_cycle.md R90). -/
def step (s : State) : Host.Outcome State Fault Refusal :=
  match s.run with
  | .halted => stepHalted s
  | .running =>
    match s.latchOpcode.fetchInstr with
    | some i => exec i s.latchOpcode
    | none => takeInvalidOpcode s.latchOpcode

/-- `s` with the instruction of a table word stored where the next cycle fetches: at PC and the Cells after it.
It stands for the loader (70_reset_and_hazards.md R175; log 17); the run state is set because only a Running engine fetches.
It is no move of the machine. -/
def State.withFetchWord (s : State) (nbits w : Nat) : State :=
  { s with run := .running, mem := s.mem.writeCells s.pc.toNat (tableWordBytes nbits w) }

end Sys2Proof.Machine
end

