-- ==== Sys2Proof/Machine/Loader.lean ====
section
/-! DEFINITION. The loader's duty before the first cycle (70_reset_and_hazards.md R175): how a program comes to run (log 17). -/

namespace Sys2Proof.Machine

/-- The loader writes the program "starting at address 0", element `k` to address `k AND (C-1)`; a sequence longer than `C`
overwrites its own beginning (70_reset_and_hazards.md R175). -/
def Memory.load (m : Memory) (image : List Cell) : Memory := m.writeCells 0 image

/-- A machine constructed with `spInit`, its memory loaded with a program (70_reset_and_hazards.md R170, R175). -/
def State.launch (spInit : Cell) (image : List Cell) : State := State.construct spInit (Memory.load [] image)

end Sys2Proof.Machine
end

