-- ==== Sys2Proof/Machine/Port.lean ====
section
/-! DEFINITION. What crosses the boundary of the core in one step request, as functions of the state
(10_state.md R30 to R32, 20_memory.md R47). The machine does not read these; claims relate them to `step`. -/

namespace Sys2Proof.Machine

/-- A transaction on the memory port (10_state.md R30). -/
inductive Transaction where
  | read (addr : Int)
  | write (addr : Int) (v : Nat)
deriving DecidableEq, Repr

/-- The data access of an instruction; `SP` and `PC` are those at the start of the cycle (20_memory.md R47, R54). -/
def dataAccess : Instr → State → List Transaction
  | .push a, s => [.write (((s.sp.toNat : Int) - 1) % 256) (s.regOperand a).toNat]
  | .pop _, s => [.read s.sp.toNat]
  | .call _, s => [.write (((s.sp.toNat : Int) - 1) % 256) ((s.pc.toNat + 2) % 256)]
  | .ret, s => [.read s.sp.toNat]
  | .nop, _ | .hlt, _ | .ldi _ _, _ | .add _ _, _ | .mul _ _, _ | .cmp _ _, _ | .prn _, _ => []

/-- The reads of the `n` operand Cells, in order (20_memory.md R47). -/
def operandReads (s : State) (n : Nat) : List Transaction :=
  (List.range n).map fun k => .read ((s.pc.toNat : Int) + 1 + k)

/-- The memory transactions of one step request, in the order they are issued: none while Halted (40_cycle.md R91), the
opcode read only for an unregistered opcode, else opcode read, operand reads, data access (20_memory.md R47). -/
def State.transactions (s : State) : List Transaction :=
  match s.run with
  | .halted => []
  | .running =>
    .read s.pc.toNat ::
      match s.latchOpcode.fetchInstr with
      | some i => operandReads s (operandCount s.latchOpcode.ir) ++ dataAccess i s
      | none => []

/-- The effect of transactions on memory: a read changes nothing (20_memory.md R41, R42). -/
def replay : List Transaction → Memory → Memory
  | [], m => m
  | .read _ :: ts, m => replay ts m
  | .write a v :: ts, m => replay ts (m.write a v)

/-- The Cells an instruction emits on the output port: one per executed PRN, none for any other (10_state.md R31). -/
def emitted : Instr → State → List Cell
  | .prn a, s => [s.regOperand a]
  | .nop, _ | .hlt, _ | .ldi _ _, _ | .add _ _, _ | .mul _ _, _ | .cmp _ _, _ | .push _, _ | .pop _, _ | .call _, _
  | .ret, _ => []

/-- The emissions of one step request (10_state.md R31). -/
def State.emissions (s : State) : List Cell :=
  match s.run with
  | .halted => []
  | .running =>
    match s.latchOpcode.fetchInstr with
    | some i => emitted i s
    | none => []

/-- The reports of one step request on the diagnostic port: the invalid-opcode report, its content equal to FAULT
(10_state.md R32). The optional trace is left out, as R32 says (log 16). -/
def State.reports (s : State) : List FaultRecord :=
  match s.run with
  | .halted => []
  | .running =>
    match s.latchOpcode.fetchInstr with
    | some _ => []
    | none => [.invalidOpcode s.pc s.latchOpcode.ir]

end Sys2Proof.Machine
end

