-- ==== Sys2Proof/Machine/Reference.lean ====
section
/-! DEFINITION. The step function of 40_cycle.md R90 written down a second time, straight from its pseudocode over raw bytes:
no decoded instruction, no handler, no shared operation but the memory port. Claims prove it equal to `step`. -/

namespace Sys2Proof.Machine

/-- Step 5 of R90: the state after the handler, and the target `t` (0 where the handler has none). -/
def r90Handler (s : State) (IR a b : Cell) : State × Nat :=
  let x (k : Cell) : Nat := (s.regs[rsel k]).toNat
  let setX (k : Cell) (v : Nat) : Vector Cell 8 := s.regs.set (rsel k).val (BitVec.ofNat 8 v) (rsel k).isLt
  let decSP : Nat := (((s.sp.toNat : Int) - 1) % 256).toNat
  let incSP : Nat := (s.sp.toNat + 1) % 256
  if IR = Mnemonic.nop.byte then (s, 0)
  else if IR = Mnemonic.hlt.byte then ({ s with run := .halted }, 0)
  else if IR = Mnemonic.ldi.byte then ({ s with regs := setX a (b.toNat &&& 255) }, 0)
  else if IR = Mnemonic.add.byte then ({ s with regs := setX a ((x a + x b) % 256) }, 0)
  else if IR = Mnemonic.mul.byte then ({ s with regs := setX a ((x a * x b) % 256) }, 0)
  else if IR = Mnemonic.cmp.byte then
    ({ s with fl := if x a = x b then s.fl ||| 0x01#8 else s.fl &&& 0xFE#8 }, 0)
  else if IR = Mnemonic.prn.byte then ({ s with out := s.out ++ [BitVec.ofNat 8 (x a)] }, 0)
  else if IR = Mnemonic.push.byte then
    ({ s with sp := BitVec.ofNat 8 decSP, mem := s.mem.write decSP (x a) }, 0)
  else if IR = Mnemonic.pop.byte then
    ({ s with regs := setX a (s.mem.read s.sp.toNat).toNat, sp := BitVec.ofNat 8 incSP }, 0)
  else if IR = Mnemonic.call.byte then
    ({ s with sp := BitVec.ofNat 8 decSP, mem := s.mem.write decSP ((s.pc.toNat + 2) % 256) }, x a)
  else
    ({ s with sp := BitVec.ofNat 8 incSP }, (s.mem.read s.sp.toNat).toNat)

/-- `step()` of R90. -/
def r90Step (s : State) : State :=
  if s.run = .halted then s
  else
    let pc0 : Nat := s.pc.toNat
    let IR : Cell := s.mem.read pc0
    let latched : State := { s with ir := IR }
    if IR ∉ [Mnemonic.nop.byte, Mnemonic.hlt.byte, Mnemonic.ldi.byte, Mnemonic.add.byte, Mnemonic.mul.byte,
        Mnemonic.cmp.byte, Mnemonic.prn.byte, Mnemonic.push.byte, Mnemonic.pop.byte, Mnemonic.call.byte,
        Mnemonic.ret.byte] then
      { latched with run := .halted, fault := some (.invalidOpcode s.pc IR) }
    else
      let n : Nat := (IR.toNat >>> 6) &&& 3
      let p : Nat := (IR.toNat >>> 4) &&& 1
      let a : Cell := if 1 ≤ n then s.mem.read ((pc0 : Int) + 1) else 0#8
      let b : Cell := if n = 2 then s.mem.read ((pc0 : Int) + 2) else 0#8
      let after := r90Handler latched IR a b
      if p = 0 then { after.1 with pc := BitVec.ofNat 8 ((pc0 + n + 1) % Config.capacity) }
      else { after.1 with pc := BitVec.ofNat 8 (after.2 &&& (Config.capacity - 1)) }

end Sys2Proof.Machine
end

