-- ==== Sys2Proof/Safety.lean ====
section
/-! DEFINITION. The terms claims are stated in: the invariant, how a run ends, and what a step leaves alone. -/

namespace Sys2Proof.Machine

/-- A normal end of a run, by HLT (10_state.md R21, 60_exceptions.md R153). -/
def State.endedNormally (s : State) : Prop := s.run = .halted ∧ s.fault = none

/-- The fault record agrees with the machine it stopped: Halted, PC at the offending byte, IR holding it, and that byte no
registered opcode (60_exceptions.md R150, R156). -/
def State.faultMatches (s : State) : FaultRecord → Prop
  | .invalidOpcode pc op => s.run = .halted ∧ s.pc = pc ∧ s.ir = op ∧ lookup op = none

/-- The invariant of the machine. -/
structure State.Inv (s : State) : Prop where
  /-- memory is in canonical form -/
  mem : s.mem.wf
  /-- FL is 0x00 or 0x01 (10_state.md R16) -/
  fl : s.fl = 0x00#8 ∨ s.fl = 0x01#8
  /-- a fault record is that of the stop the machine is in (10_state.md R21) -/
  fault : ∀ f, s.fault = some f → s.faultMatches f
  /-- a halt without a fault record is HLT's (10_state.md R20, R21) -/
  halt : s.endedNormally → s.ir = Mnemonic.hlt.byte

/-- Every Cell of memory reads as before, at every address. -/
def SameMemory (s t : State) : Prop := ∀ addr : Int, t.mem.read addr = s.mem.read addr

/-- Every Cell of memory reads as before, but the one named by `stored`. -/
def SameMemoryBut (stored : Int) (s t : State) : Prop :=
  ∀ addr : Int, normalise addr ≠ normalise stored → t.mem.read addr = s.mem.read addr

/-- Every general register is as before. -/
def SameRegs (s t : State) : Prop := ∀ r : Reg, t.getReg r = s.getReg r

/-- Every general register but `dest` is as before. -/
def SameRegsBut (dest : Reg) (s t : State) : Prop := ∀ r : Reg, r ≠ dest → t.getReg r = s.getReg r

/-- IR and FAULT, which no instruction writes (10_state.md R15, R21). -/
def SameIrFault (s t : State) : Prop := t.ir = s.ir ∧ t.fault = s.fault

/-- The general registers an instruction reads (10_state.md R11). -/
def regReads : Instr → List Reg
  | .nop | .hlt | .ret | .ldi _ _ | .pop _ => []
  | .add a b | .mul a b | .cmp a b => [rsel a, rsel b]
  | .prn a | .push a | .call a => [rsel a]

/-- The general registers an instruction writes (10_state.md R11). -/
def regWrites : Instr → List Reg
  | .nop | .hlt | .ret | .cmp _ _ | .prn _ | .push _ | .call _ => []
  | .ldi a _ | .add a _ | .mul a _ | .pop a => [rsel a]

/-- The Cells at PC and after it, as many as the longest instruction has (20_memory.md R44). -/
def State.window (s : State) : List Cell :=
  [s.mem.read s.pc.toNat, s.mem.read ((s.pc.toNat : Int) + 1), s.mem.read ((s.pc.toNat : Int) + 2)]

/-- `k` step requests (10_state.md R33). -/
def requests (k : Nat) (s : State) : Result := Host.Core.run Sys2Proof.core k s

end Sys2Proof.Machine
end

