-- ==== Sys2Proof/Certificates/Slice0/Obligations.lean ====
section
/-! DEFINITION. The statements for the provers. Where a clause rests on a decision the spec marks as its own (D<n> of
92_eei_decisions.md), the docstring names it with the log entry, and the statement's basis is 'derived'. -/

open Sys2Proof Sys2Proof.Machine

/-! ## Encoding, decoding, dispatch -/

/-- 30_encoding.md R67: the three constraints on any opcode assignment: distinct bytes, bits 7:6 the operand count, bit 4 set
for CALL and RET alone. -/
def Obligations.OpcodeAssignmentConstraints : Prop :=
  (∀ m n : Mnemonic, m.byte = n.byte → m = n) ∧
  (∀ m ∈ [Mnemonic.nop, .hlt, .ret], m.byte.toNat / 64 = 0) ∧
  (∀ m ∈ [Mnemonic.prn, .push, .pop, .call], m.byte.toNat / 64 = 1) ∧
  (∀ m ∈ [Mnemonic.ldi, .add, .mul, .cmp], m.byte.toNat / 64 = 2) ∧
  (∀ m ∈ [Mnemonic.call, .ret], m.byte.toNat / 16 % 2 = 1) ∧
  (∀ m : Mnemonic, m ≠ .call → m ≠ .ret → m.byte.toNat / 16 % 2 = 0)

/-- 40_cycle.md R80, R81, R82 and 30_encoding.md R61: the decoder's two outputs for every byte, and the whole byte put back
together from its fields (bit 5 has no decoded meaning: decision D2, log 19). -/
def Obligations.OpcodeBitFields : Prop :=
  ∀ op : Cell,
    operandCount op = (op.toNat >>> 6) &&& 3 ∧ operandCount op ≤ 3 ∧
    (setsPcItself op = true ↔ (op.toNat >>> 4) &&& 1 = 1) ∧
    op.toNat = 64 * operandCount op + 32 * (op.toNat / 32 % 2) + 16 * (setsPcItself op).toNat + opcodeId op

/-- 40_cycle.md R83: the lookup finds the handler whose opcode byte it is given exactly, and NotFound for the other 245. -/
def Obligations.DispatcherMatchesWholeByte : Prop :=
  (∀ (op : Cell) (m : Mnemonic), lookup op = some m ↔ op = m.byte) ∧
  ((List.range 256).filter fun n => lookup (BitVec.ofNat 8 n) = none).length = 245

/-- 30_encoding.md R62, R66, R71: each instruction's Cells, written out from the table, decode to it. The byte values are
PRESUMED (decision D1, log 1). -/
def Obligations.SpecWordsDecode : Prop :=
  decode [0x00#8] = .instr .nop [] ∧
  decode [0x01#8] = .instr .hlt [] ∧
  decode [0x82#8, 0x0A#8, 0x55#8] = .instr (.ldi 0x0A#8 0x55#8) [] ∧
  decode [0xA0#8, 0x00#8, 0x01#8] = .instr (.add 0x00#8 0x01#8) [] ∧
  decode [0xA2#8, 0x01#8, 0x02#8] = .instr (.mul 0x01#8 0x02#8) [] ∧
  decode [0xA7#8, 0x03#8, 0x04#8] = .instr (.cmp 0x03#8 0x04#8) [] ∧
  decode [0x47#8, 0x05#8] = .instr (.prn 0x05#8) [] ∧
  decode [0x45#8, 0x02#8] = .instr (.push 0x02#8) [] ∧
  decode [0x46#8, 0x03#8] = .instr (.pop 0x03#8) [] ∧
  decode [0x50#8, 0x01#8] = .instr (.call 0x01#8) [] ∧
  decode [0x11#8] = .instr .ret [] ∧
  decode [0xC0#8, 0x00#8, 0x00#8] = .rejected (.invalidOpcode 0xC0#8)

/-- Decoding the Cells of any instruction, with every operand byte at every value, gives it back and leaves the rest
(30_encoding.md R60, R62). That a term keeps all eight bits of a register operand byte is the model's choice (log 18). -/
def Obligations.DecodeOfEncode : Prop :=
  ∀ (i : Instr) (rest : List Cell), decode (encode i ++ rest) = .instr i rest

/-- A byte string that decodes is the encoding of what it decodes to. That no bit of a register operand byte is dropped is the
model's choice, `Instr` keeping the bytes whole (log 18): R62 gives only the number and order of the Cells, and R64 calls
bits 7:3 ignored. -/
def Obligations.EncodeOfDecode : Prop :=
  ∀ (bytes : List Cell) (i : Instr) (rest : List Cell), decode bytes = .instr i rest → encode i ++ rest = bytes

/-- The Cells of a program determine its instructions (30_encoding.md R60, R63, R71), register operand bytes kept whole by the
model's choice (log 18). -/
def Obligations.AssembledProgramsDiffer : Prop :=
  ∀ p q : List Instr, assemble p = assemble q → p = q

/-- 30_encoding.md R64, R69: an instruction executes identically when the ignored bits of its register operand bytes are
cleared, and is then in the assembled form of R71. Which bits are ignored is decision D3 (log 2). -/
def Obligations.IgnoredOperandBits : Prop :=
  ∀ (i : Instr) (s : State),
    exec i.canonical s = exec i s ∧ i.canonical.wellFormed = true ∧ (i.wellFormed = true → i.canonical = i)

/-! ## Memory -/

/-- 20_memory.md R42: a write changes the Cell at the address AND (C-1) to the value AND 255, and no other. -/
def Obligations.MemoryWriteContract : Prop :=
  ∀ (m : Memory) (addr v b : Nat), m.wf →
    if b &&& (Config.capacity - 1) = addr &&& (Config.capacity - 1)
      then (m.write addr v).read b = BitVec.ofNat 8 (v &&& 255)
      else (m.write addr v).read b = m.read b

/-- 20_memory.md R40, R43: any integer address is accepted and wraps; for the core's own, non-negative addresses the
normalisation is the AND with C - 1. What a negative address names is DEDUCED (log 24). -/
def Obligations.AddressesWrap : Prop :=
  (∀ n : Nat, normalise n = n &&& (Config.capacity - 1)) ∧
  (∀ addr : Int, normalise addr < Config.capacity ∧ normalise (addr + Config.capacity) = normalise addr) ∧
  (∀ (m : Memory) (v : Nat), m.wf → (m.write Config.capacity v).read 0 = BitVec.ofNat 8 (v &&& 255))

/-- Two memories in canonical form that read alike are the same data (20_memory.md R40; the form is the model's). -/
def Obligations.EqualReadsEqualMemories : Prop :=
  ∀ m m' : Memory, m.wf → m'.wf → (∀ addr : Int, m.read addr = m'.read addr) → m = m'

/-- Writes to different Cells commute, and of two writes to one Cell the second remains (20_memory.md R42, R48), as data. -/
def Obligations.WritesCommuteOrOverwrite : Prop :=
  ∀ (m : Memory) (a b : Int) (v w : Nat), m.wf →
    (normalise a ≠ normalise b → (m.write a v).write b w = (m.write b w).write a v) ∧
    (normalise a = normalise b → (m.write a v).write b w = m.write b w)

/-- 70_reset_and_hazards.md R175: element `k` of the program goes to address `k AND (C-1)`, in ascending order, so that the
last element of a sequence, however long, lands at its own index reduced and leaves the Cells before it as they were. -/
def Obligations.LoaderPlacesProgram : Prop :=
  ∀ (m : Memory) (image : List Cell) (v : Cell), m.wf →
    m.load [] = m ∧
    (m.load (image ++ [v])).read (image.length &&& (Config.capacity - 1) : Nat) = v ∧
    ∀ addr : Int, normalise addr ≠ image.length &&& (Config.capacity - 1) →
      (m.load (image ++ [v])).read addr = (m.load image).read addr

/-! ## The ALU -/

/-- 43_alu.md R110: the table of the three operations, and the handler that reads the two registers, applies the ALU and
writes back the result when there is one and the flag update when there is one. Register selection is decision D3 (log 2),
the flags' positions D9 (log 7). -/
def Obligations.AluContract : Prop :=
  (∀ va vb : Cell,
    (∃ v : Cell, alu .add va vb = ⟨some v, none⟩ ∧ v.toNat = (va.toNat + vb.toNat) % 256) ∧
    (∃ v : Cell, alu .mul va vb = ⟨some v, none⟩ ∧ v.toNat = (va.toNat * vb.toNat) % 256) ∧
    alu .cmp va vb = ⟨none, some ⟨some (decide (va = vb)), none, none⟩⟩) ∧
  ∀ (s : State) (op : AluOp) (a b : Cell),
    let o := alu op (s.getReg (rsel a)) (s.getReg (rsel b))
    let t := s.aluHandler op a b
    t.getReg (rsel a) = o.result.getD (s.getReg (rsel a)) ∧
    SameRegsBut (rsel a) s t ∧
    flagE t.fl = (o.flagsDelta.bind FlagsDelta.equal).getD (flagE s.fl) ∧
    flagG t.fl = (o.flagsDelta.bind FlagsDelta.greater).getD (flagG s.fl) ∧
    flagL t.fl = (o.flagsDelta.bind FlagsDelta.less).getD (flagL s.fl) ∧
    t = { s with regs := t.regs, fl := t.fl }

/-- 43_alu.md R116 (which the spec marks as derived): ADD and MUL make the Cells a commutative ring. -/
def Obligations.ArithmeticLaws : Prop :=
  let add (u v : Cell) : Cell := (alu .add u v).result.getD 0#8
  let mul (u v : Cell) : Cell := (alu .mul u v).result.getD 0#8
  ∀ u v w : Cell,
    add u v = add v u ∧ add (add u v) w = add u (add v w) ∧ add u 0#8 = u ∧
    mul u v = mul v u ∧ mul (mul u v) w = mul u (mul v w) ∧ mul u 1#8 = u ∧ mul u 0#8 = 0#8 ∧
    mul u (add v w) = add (mul u v) (mul u w) ∧ add u (BitVec.ofNat 8 (256 - u.toNat)) = 0#8

/-! ## What each instruction does: every one completes, from every state

In `exec i s` PC is the address of the opcode byte. Register selection by the low three bits is decision D3 (log 2), the
reduction of PC at the top of memory decision D7 (log 5), the wrap of SP decision D5 (log 20). -/

/-- 41_nop_hlt.md R100. -/
def Obligations.NopResult : Prop :=
  ∀ s : State, exec .nop s = .next { s with pc := BitVec.ofNat 8 ((s.pc.toNat + 1) % 256) }

/-- 41_nop_hlt.md R101; that PC advances past the HLT is decision D13 (log 11). -/
def Obligations.HltResult : Prop :=
  ∀ s : State, exec .hlt s = .next { s with run := .halted, pc := BitVec.ofNat 8 ((s.pc.toNat + 1) % 256) }

/-- 42_ldi.md R105. -/
def Obligations.LdiResult : Prop :=
  ∀ (a b : Cell) (s : State), ∃ t, exec (.ldi a b) s = .next t ∧
    (t.getReg (rsel a)).toNat = b.toNat &&& 255 ∧ t.pc.toNat = (s.pc.toNat + 3) % 256

/-- 43_alu.md R112: both reads precede the write, so `ra = rb` doubles the register. -/
def Obligations.AddResult : Prop :=
  ∀ (a b : Cell) (s : State), ∃ t, exec (.add a b) s = .next t ∧
    (t.getReg (rsel a)).toNat = ((s.getReg (rsel a)).toNat + (s.getReg (rsel b)).toNat) % 256 ∧
    t.fl = s.fl ∧ t.pc.toNat = (s.pc.toNat + 3) % 256

/-- 43_alu.md R113. -/
def Obligations.MulResult : Prop :=
  ∀ (a b : Cell) (s : State), ∃ t, exec (.mul a b) s = .next t ∧
    (t.getReg (rsel a)).toNat = ((s.getReg (rsel a)).toNat * (s.getReg (rsel b)).toNat) % 256 ∧
    t.fl = s.fl ∧ t.pc.toNat = (s.pc.toNat + 3) % 256

/-- 43_alu.md R114: E is written, the other seven bits of FL and every register keep their values. That L and G are not
written is decision D10 (log 8), the bit positions D9 (log 7). -/
def Obligations.CmpResult : Prop :=
  ∀ (a b : Cell) (s : State), ∃ t, exec (.cmp a b) s = .next t ∧
    (flagE t.fl = true ↔ s.getReg (rsel a) = s.getReg (rsel b)) ∧
    (∀ k, 1 ≤ k → t.fl.getLsbD k = s.fl.getLsbD k) ∧
    SameRegs s t ∧ t.pc.toNat = (s.pc.toNat + 3) % 256

/-- 44_prn.md R120. -/
def Obligations.PrnResult : Prop :=
  ∀ (a : Cell) (s : State), ∃ t, exec (.prn a) s = .next t ∧
    t.out = s.out ++ [s.getReg (rsel a)] ∧ t.pc.toNat = (s.pc.toNat + 2) % 256

/-- 45_stack.md R126. -/
def Obligations.PushResult : Prop :=
  ∀ (a : Cell) (s : State), s.mem.wf → ∃ t, exec (.push a) s = .next t ∧
    t.sp.toNat = (s.sp.toNat + 255) % 256 ∧ t.mem.read t.sp.toNat = s.getReg (rsel a) ∧
    t.pc.toNat = (s.pc.toNat + 2) % 256

/-- 45_stack.md R127. -/
def Obligations.PopResult : Prop :=
  ∀ (a : Cell) (s : State), ∃ t, exec (.pop a) s = .next t ∧
    t.getReg (rsel a) = s.mem.read s.sp.toNat ∧ t.sp.toNat = (s.sp.toNat + 1) % 256 ∧
    t.pc.toNat = (s.pc.toNat + 2) % 256

/-- 46_call_ret.md R135; the reduction of the pushed return address to a Cell is decision D16 (log 14). -/
def Obligations.CallResult : Prop :=
  ∀ (a : Cell) (s : State), s.mem.wf → ∃ t, exec (.call a) s = .next t ∧
    t.sp.toNat = (s.sp.toNat + 255) % 256 ∧ (t.mem.read t.sp.toNat).toNat = (s.pc.toNat + 2) % 256 ∧
    t.pc = s.getReg (rsel a)

/-- 46_call_ret.md R136. -/
def Obligations.RetResult : Prop :=
  ∀ s : State, ∃ t, exec .ret s = .next t ∧
    t.pc = s.mem.read s.sp.toNat ∧ t.sp.toNat = (s.sp.toNat + 1) % 256

/-! ## Frames -/

/-- LDI, ADD, MUL change no register but `x[ra]`, no other state but PC (10_state.md R11; 42_ldi.md R105; 43_alu.md R112, R113). -/
def Obligations.RegisterInstructionsFrame : Prop :=
  ∀ (a b : Cell) (i : Instr) (s t : State), i = .ldi a b ∨ i = .add a b ∨ i = .mul a b → exec i s = .next t →
    SameRegsBut (rsel a) s t ∧ t.fl = s.fl ∧ t.sp = s.sp ∧ t.run = s.run ∧ SameIrFault s t ∧ t.out = s.out ∧
    SameMemory s t

/-- NOP, HLT, CMP, PRN change no register, no SP and no memory; of the rest of the state HLT alone changes RUN, CMP alone FL
and PRN alone OUT (41_nop_hlt.md R100, R101; 43_alu.md R114; 44_prn.md R120). -/
def Obligations.NonStoringFrame : Prop :=
  ∀ (a b : Cell) (i : Instr) (s t : State), i = .nop ∨ i = .hlt ∨ i = .cmp a b ∨ i = .prn a → exec i s = .next t →
    SameRegs s t ∧ t.sp = s.sp ∧ SameIrFault s t ∧ SameMemory s t ∧
    (i ≠ .hlt → t.run = s.run) ∧ (i ≠ .cmp a b → t.fl = s.fl) ∧ (i ≠ .prn a → t.out = s.out)

/-- PUSH and CALL change no register, and of memory only the Cell at the decremented SP (45_stack.md R126, 46_call_ret.md R135). -/
def Obligations.StoringFrame : Prop :=
  ∀ (a : Cell) (i : Instr) (s t : State), s.mem.wf → i = .push a ∨ i = .call a → exec i s = .next t →
    SameRegs s t ∧ t.fl = s.fl ∧ t.run = s.run ∧ SameIrFault s t ∧ t.out = s.out ∧
    SameMemoryBut (s.sp - 1#8).toNat s t

/-- POP changes no register but `x[ra]` and SP, RET none but SP; neither changes memory (45_stack.md R127, 46_call_ret.md R136). -/
def Obligations.PoppingFrame : Prop :=
  ∀ (a : Cell) (i : Instr) (s t : State), i = .pop a ∨ i = .ret → exec i s = .next t →
    SameRegsBut (rsel a) s t ∧ (i = .ret → SameRegs s t) ∧ t.fl = s.fl ∧ t.run = s.run ∧ SameIrFault s t ∧
    t.out = s.out ∧ SameMemory s t

/-! ## Rules of the whole machine -/

/-- 10_state.md R11: the registers each instruction reads and writes are those of the table, and fetch, decode and dispatch
touch none. What a register holds that an instruction does not read has no effect but on itself. Register selection is
decision D3 (log 2). -/
def Obligations.RegisterReadsAndWrites : Prop :=
  (∀ (i : Instr) (s t : State) (r : Reg), exec i s = .next t → r ∉ regWrites i → t.getReg r = s.getReg r) ∧
  (∀ (i : Instr) (s t : State) (r : Reg) (v : Cell), exec i s = .next t → r ∉ regReads i →
    exec i (s.setReg r v) = .next (if r ∈ regWrites i then t else t.setReg r v)) ∧
  (∀ (s : State) (r : Reg) (v : Cell), (s.setReg r v).latchOpcode.fetchInstr = s.latchOpcode.fetchInstr)

/-- From 20_memory.md R54: PUSH and CALL change no Cell but the one at the new top of stack, POP and RET depend on no Cell but
the one at the top of stack, and no other instruction reads or writes memory as data. That PUSH and CALL do write that Cell,
and POP and RET read it, with which value, is in PushResult, PopResult, CallResult and RetResult. -/
def Obligations.DataAccessOnlyByStackInstructions : Prop :=
  (∀ (a : Cell) (s t : State), s.mem.wf → exec (.push a) s = .next t ∨ exec (.call a) s = .next t →
    SameMemoryBut t.sp.toNat s t) ∧
  (∀ (i : Instr) (s t : State), (∀ a, i ≠ .push a ∧ i ≠ .call a) → exec i s = .next t → t.mem = s.mem) ∧
  (∀ (i : Instr) (s t : State) (m : Memory), (∀ a, i ≠ .pop a) → i ≠ .ret → exec i s = .next t →
    ∃ m', exec i { s with mem := m } = .next { t with mem := m' }) ∧
  (∀ (a : Cell) (i : Instr) (s t : State) (m : Memory), i = .pop a ∨ i = .ret →
    m.read s.sp.toNat = s.mem.read s.sp.toNat → exec i s = .next t →
    exec i { s with mem := m } = .next { t with mem := m })

/-- 10_state.md R18, R19: SP changes only by PUSH and CALL, down by one, and POP and RET, up by one; a register write, to R7
as to any other, does not move it. SP apart from R7 is decision D4 (log 3). -/
def Obligations.StackPointerWriters : Prop :=
  ∀ (i : Instr) (s t : State), exec i s = .next t →
    (∀ a, i = .push a ∨ i = .call a → t.sp.toNat = (s.sp.toNat + 255) % 256) ∧
    (∀ a, i = .pop a ∨ i = .ret → t.sp.toNat = (s.sp.toNat + 1) % 256) ∧
    ((∀ a, i ≠ .push a ∧ i ≠ .call a ∧ i ≠ .pop a) → i ≠ .ret → t.sp = s.sp)

/-- 10_state.md R14, 40_cycle.md R88: an instruction whose opcode has bit 4 clear ends with PC advanced by its operand count
plus one, mod C (the reduction is decision D7, log 5); one with bit 4 set ends at its target, with no increment. -/
def Obligations.PcAdvance : Prop :=
  ∀ (i : Instr) (s t : State), exec i s = .next t →
    (setsPcItself i.mnemonic.byte = false →
      t.pc.toNat = (s.pc.toNat + operandCount i.mnemonic.byte + 1) % Config.capacity) ∧
    (setsPcItself i.mnemonic.byte = true →
      (∃ a, i = .call a ∧ t.pc = s.getReg (rsel a)) ∨ (i = .ret ∧ t.pc = s.mem.read s.sp.toNat))

/-- 44_prn.md R121: one executed PRN appends one Cell, one `emit` on the output port, and nothing else produces output.
Register selection is decision D3 (log 2). -/
def Obligations.OutputOnlyByPrn : Prop :=
  (∀ (a : Cell) (s t : State), exec (.prn a) s = .next t → t.out = s.out ++ [s.getReg (rsel a)]) ∧
  (∀ (i : Instr) (s t : State), (∀ a, i ≠ .prn a) → exec i s = .next t → t.out = s.out) ∧
  (∀ s t : State, step s = .next t → t.out = s.out ++ s.emissions ∧ s.emissions.length ≤ 1 ∧
    (s.emissions ≠ [] → s.mem.read s.pc.toNat = Mnemonic.prn.byte))

/-- 10_state.md R22: nothing reads OUT, and it only grows; OUT as a list is decision D17 (log 15). -/
def Obligations.OutputNeverRead : Prop :=
  ∀ (s t : State) (o : List Cell), step s = .next t →
    ∃ w, t.out = s.out ++ w ∧ step { s with out := o } = .next { t with out := o ++ w }

/-- 10_state.md R16, 43_alu.md R114: no instruction but CMP writes FL, and CMP writes no bit but E (decisions D9, D10; log 7, log 8). -/
def Obligations.FlagsOnlyByCmp : Prop :=
  ∀ (i : Instr) (s t : State), exec i s = .next t →
    (∀ k, 1 ≤ k → t.fl.getLsbD k = s.fl.getLsbD k) ∧ ((∀ a b, i ≠ .cmp a b) → t.fl = s.fl)

/-- 10_state.md R16, 46_call_ret.md R138: nothing reads FL: a step from a state that differs only in FL ends in a state that
differs only in FL. -/
def Obligations.FlagsNeverRead : Prop :=
  ∀ (s t : State) (f : Cell), step s = .next t → ∃ g, step { s with fl := f } = .next { t with fl := g }

/-- 10_state.md R20: RUN is Running after reset, HLT and an unregistered opcode alone set it to Halted, and nothing sets it back. -/
def Obligations.WhatHalts : Prop :=
  State.reset.run = .running ∧
  (∀ s t : State, s.run = .running → step s = .next t →
    (t.run = .halted ↔ s.mem.read s.pc.toNat = Mnemonic.hlt.byte ∨ lookup (s.mem.read s.pc.toNat) = none)) ∧
  (∀ s t : State, s.run = .halted → step s = .next t → t.run = .halted)

/-- 40_cycle.md R87, 60_exceptions.md R151, R158: every instruction completes from every state, and so does every step request. -/
def Obligations.EveryStepCompletes : Prop :=
  (∀ (i : Instr) (s : State), ∃ t, exec i s = .next t) ∧ (∀ s : State, ∃ t, step s = .next t)

/-! ## The cycle -/

/-- 40_cycle.md R84, R86, R87, R90: from a Running state whose Cells at PC decode to `i`, a step latches the opcode in IR and
is `exec i`; the machine adds nothing around it. -/
def Obligations.StepRunsDecodedInstruction : Prop :=
  ∀ (s : State) (i : Instr) (rest : List Cell), s.run = .running → decode s.window = .instr i rest →
    step s = exec i { s with ir := s.mem.read s.pc.toNat }

/-- 40_cycle.md R84: a cycle always fetches, and latches in IR the Cell that is at PC then, whatever IR held. -/
def Obligations.FetchLatchesOpcode : Prop :=
  ∀ (s : State) (old : Cell), s.run = .running →
    ∃ t, step s = .next t ∧ t.ir = s.mem.read s.pc.toNat ∧ step { s with ir := old } = .next t

/-- 40_cycle.md R85, 60_exceptions.md R150, R156: an unregistered opcode: RUN Halted, FAULT the pair, IR the byte, and no other
state changes. What PC and IR hold afterwards is decision D14 (log 12). -/
def Obligations.InvalidOpcodeTaken : Prop :=
  ∀ s : State, s.run = .running → lookup (s.mem.read s.pc.toNat) = none →
    step s = .next { s with
      ir := s.mem.read s.pc.toNat
      run := .halted
      fault := some (.invalidOpcode s.pc (s.mem.read s.pc.toNat)) }

/-- 40_cycle.md R91, 60_exceptions.md R157: however many requests follow, a halted machine does not change (decision D12, log 10). -/
def Obligations.HaltedIsTerminal : Prop :=
  ∀ (k : Nat) (s : State), s.run = .halted → requests k s = .next s

/-- 40_cycle.md R92: a cycle always completes, with exactly one of three outcomes; no two of them can hold of one state. -/
def Obligations.ThreeOutcomes : Prop :=
  ∀ s : State, s.Inv → s.run = .running → ∃ t, step s = .next t ∧
    ((t.run = .running ∧ t.fault = none) ∨
     (t.run = .halted ∧ t.fault = none ∧ s.mem.read s.pc.toNat = Mnemonic.hlt.byte) ∨
     (t.run = .halted ∧ t.fault = some (.invalidOpcode s.pc t.ir)))

/-- The machine is the step function of 40_cycle.md R90, written down a second time from its pseudocode over raw bytes. R90
embodies decisions D3, D5, D7, D12, D13, D14, D15 and D16 (log 2, 20, 5, 10, 11, 12, 13, 14). -/
def Obligations.StepIsR90 : Prop :=
  ∀ s : State, step s = .next (r90Step s)

/-- 10_state.md R24, 70_reset_and_hazards.md R170: the state after reset. SP and RUN are the source's; the zeros of x, IR and FL
are decision D8 (log 6), PC = 0 is D7 (log 5), FAULT and OUT are D18 and D17 (log 16, log 15), and the empty memory list is D11 (log 9). -/
def Obligations.ResetState : Prop :=
  (∀ r : Reg, State.reset.getReg r = 0x00#8) ∧ State.reset.pc = 0x00#8 ∧ State.reset.ir = 0x00#8 ∧
  State.reset.fl = 0x00#8 ∧ State.reset.sp = 0xF4#8 ∧ State.reset.run = .running ∧ State.reset.fault = none ∧
  State.reset.out = [] ∧ State.reset.mem = []

/-- The invariant holds after reset. -/
def Obligations.ResetMeetsInvariant : Prop := State.reset.Inv

/-- Every step keeps the invariant: memory canonical, FL 0x00 or 0x01 (10_state.md R16), FAULT that of the stop the machine is in
(10_state.md R21, 60_exceptions.md R156), a halt without FAULT HLT's (10_state.md R20). -/
def Obligations.StepKeepsInvariant : Prop :=
  ∀ s t : State, s.Inv → step s = .next t → t.Inv

/-! ## The ports -/

/-- 20_memory.md R47, 10_state.md R30: a step depends on memory only through the reads of its transaction list, and changes it
only by the writes of that list. -/
def Obligations.MemoryOnlyThroughThePort : Prop :=
  ∀ (s t : State) (m : Memory), step s = .next t →
    (∀ addr : Int, .read addr ∈ s.transactions → m.read addr = s.mem.read addr) →
    step { s with mem := m } = .next { t with mem := replay s.transactions m }

/-- 10_state.md R30, R32, 20_memory.md R47: a step has at most four memory transactions and at most one write, an unregistered
opcode only the opcode read; and the reports on the diagnostic port are what FAULT comes to hold. -/
def Obligations.PortsOfAStep : Prop :=
  ∀ s t : State, step s = .next t →
    s.transactions.length ≤ 4 ∧
    (s.transactions.filter fun x => match x with | .write _ _ => true | .read _ => false).length ≤ 1 ∧
    (s.run = .halted → s.transactions = []) ∧
    (s.run = .running → lookup (s.mem.read s.pc.toNat) = none → s.transactions = [.read s.pc.toNat]) ∧
    (t.fault = match s.reports with | [] => s.fault | f :: _ => some f) ∧ s.reports.length ≤ 1

/-! ## Laws over several instructions -/

/-- 45_stack.md R128 (its general form is marked derived): a PUSH and then a POP in consecutive steps copy the register, leave
SP as before and the value in memory, whenever the push does not land on the POP's own bytes. -/
def Obligations.PushThenPop : Prop :=
  ∀ (s : State) (a b : Cell), s.mem.wf → s.run = .running →
    s.mem.read s.pc.toNat = Mnemonic.push.byte → s.mem.read ((s.pc.toNat : Int) + 1) = a →
    s.mem.read ((s.pc.toNat : Int) + 2) = Mnemonic.pop.byte → s.mem.read ((s.pc.toNat : Int) + 3) = b →
    normalise ((s.pc.toNat : Int) + 2) ≠ (s.sp - 1#8).toNat → normalise ((s.pc.toNat : Int) + 3) ≠ (s.sp - 1#8).toNat →
    ∃ t u, step s = .next t ∧ step t = .next u ∧
      u.getReg (rsel b) = s.getReg (rsel a) ∧ SameRegsBut (rsel b) s u ∧ u.sp = s.sp ∧
      u.mem.read (s.sp - 1#8).toNat = s.getReg (rsel a) ∧ u.pc.toNat = (s.pc.toNat + 4) % 256

/-- 46_call_ret.md R137 (marked derived): a RET executed with SP as the CALL left it and the pushed Cell not overwritten
returns to the address after the CALL and restores SP. The return address mod 256 is decision D16 (log 14). -/
def Obligations.CallThenRet : Prop :=
  ∀ (a : Cell) (s t u v : State), s.mem.wf → exec (.call a) s = .next t →
    u.sp = t.sp → u.mem.read t.sp.toNat = t.mem.read t.sp.toNat → exec .ret u = .next v →
    v.pc.toNat = (s.pc.toNat + 2) % 256 ∧ v.sp = s.sp

/-- 46_call_ret.md R136 (marked derived there): PUSH and then RET jump to the register's value and leave SP as before. -/
def Obligations.PushThenRetJumps : Prop :=
  ∀ (a : Cell) (s : State), s.mem.wf →
    ∃ t u, exec (.push a) s = .next t ∧ exec .ret t = .next u ∧ u.pc = s.getReg (rsel a) ∧ u.sp = s.sp

/-- 20_memory.md R50, 70_reset_and_hazards.md R182: a Cell a PUSH writes is what the very next fetch of it returns. -/
def Obligations.PushedCellIsFetched : Prop :=
  ∀ (a : Cell) (s t u : State), s.mem.wf → s.run = .running → s.latchOpcode.fetchInstr = some (.push a) →
    step s = .next t → t.pc = t.sp → step t = .next u → u.ir = s.getReg (rsel a)

/-- 40_cycle.md R93, 41_nop_hlt.md R100: through memory full of OPC_NOP the machine runs for ever, PC wrapping at C. -/
def Obligations.NopMemoryRunsForever : Prop :=
  ∀ (k : Nat) (s : State), s.run = .running → (∀ addr : Int, s.mem.read addr = Mnemonic.nop.byte) →
    ∃ t, requests k s = .next t ∧ t.pc.toNat = (s.pc.toNat + k) % 256 ∧ t = { s with pc := t.pc, ir := t.ir }

/-- An instruction placed by `withFetchWord` is the one the next step runs (log 17). -/
def Obligations.PlacedWordRuns : Prop :=
  ∀ (s : State) (nbits w : Nat) (i : Instr), s.mem.wf → decodeTableWord nbits w = some i →
    step (s.withFetchWord nbits w) = exec i (s.withFetchWord nbits w).latchOpcode
end

