-- ==== Sys2Proof/Laws/Decode.lean ====
section
/-! SUPPORT. The laws of the decoder's parts: the dispatch lookup, the operand count, the operand fetch. -/

namespace Sys2Proof

@[simp] theorem lookup_byte (m : Mnemonic) : lookup m.byte = some m := by
  cases m <;> decide

/-- The lookup finds exactly the handler whose opcode byte it is given (40_cycle.md R83). -/
theorem lookup_eq_some {op : Cell} {m : Mnemonic} (h : lookup op = some m) : op = m.byte := by
  have h' : (m.byte == op) = true := List.find?_some (p := fun m : Mnemonic => m.byte == op) h
  exact (eq_of_beq h').symm

theorem decode_cons {op : Cell} {m : Mnemonic} (h : lookup op = some m) (rest : List Cell) :
    decode (op :: rest) = match m.build rest with
      | some (i, rest') => .instr i rest'
      | none => .rejected (.truncated op) := by
  cases hb : m.build rest <;> simp [decode, h, hb]

theorem decode_invalid {op : Cell} (h : lookup op = none) (rest : List Cell) :
    decode (op :: rest) = .rejected (.invalidOpcode op) := by
  simp [decode, h]

/-- A handler reads its operand bytes and leaves the rest (30_encoding.md R62). -/
theorem build_operandBytes (i : Instr) (rest : List Cell) :
    i.mnemonic.build (i.operandBytes ++ rest) = some (i, rest) := by
  cases i <;> rfl

/-- Bits 7:6 of the eleven opcode bytes (30_encoding.md R66). -/
theorem operandCount_mnemonic (m : Mnemonic) : operandCount m.byte = match m with
    | .nop | .hlt | .ret => 0
    | .prn | .push | .pop | .call => 1
    | .ldi | .add | .mul | .cmp => 2 := by
  cases m <;> decide

@[simp] theorem operandCount_byte (i : Instr) : operandCount i.mnemonic.byte = i.operandBytes.length :=
  (operandCount_mnemonic _).trans (by cases i <;> rfl)

namespace Machine

/-- `rsel` is the low three bits (30_encoding.md R64). -/
theorem rsel_val (b : Cell) : (rsel b).val = b.toNat % 8 := by
  simp [rsel, BitVec.extractLsb'_toNat]

/-- `rsel` ignores bits 7:3 (30_encoding.md R64). -/
theorem rsel_and_7 (b : Cell) : rsel (b &&& 0x07#8) = rsel b := by
  revert b; decide

theorem rsel_regByte (r : Reg) : rsel (regByte r) = r := by
  revert r; decide

@[simp] theorem immOperand_eq (b : Cell) : immOperand b = b := by
  revert b; decide

@[simp] theorem operandCells_zero (s : State) : s.operandCells 0 = [] := rfl

@[simp] theorem operandCells_one (s : State) : s.operandCells 1 = [s.mem.read ((s.pc.toNat : Int) + 1)] := by
  simp [State.operandCells]

@[simp] theorem operandCells_two (s : State) :
    s.operandCells 2 = [s.mem.read ((s.pc.toNat : Int) + 1), s.mem.read ((s.pc.toNat : Int) + 2)] := by
  simp [State.operandCells, List.range_succ, add_assoc]

end Machine

end Sys2Proof
end

