-- ==== Sys2Proof/Laws/State.lean ====
section
/-! SUPPORT. One lemma per field per state update, each true by rfl, so that no proof unfolds a record update. -/

namespace Sys2Proof.Machine

variable (s : State)

@[simp] theorem State.setReg_regs (r : Reg) (v : Cell) : (s.setReg r v).regs = s.regs.set r.val v r.isLt := rfl
@[simp] theorem State.setReg_pc (r : Reg) (v : Cell) : (s.setReg r v).pc = s.pc := rfl
@[simp] theorem State.setReg_ir (r : Reg) (v : Cell) : (s.setReg r v).ir = s.ir := rfl
@[simp] theorem State.setReg_fl (r : Reg) (v : Cell) : (s.setReg r v).fl = s.fl := rfl
@[simp] theorem State.setReg_sp (r : Reg) (v : Cell) : (s.setReg r v).sp = s.sp := rfl
@[simp] theorem State.setReg_run (r : Reg) (v : Cell) : (s.setReg r v).run = s.run := rfl
@[simp] theorem State.setReg_fault (r : Reg) (v : Cell) : (s.setReg r v).fault = s.fault := rfl
@[simp] theorem State.setReg_out (r : Reg) (v : Cell) : (s.setReg r v).out = s.out := rfl
@[simp] theorem State.setReg_mem (r : Reg) (v : Cell) : (s.setReg r v).mem = s.mem := rfl

@[simp] theorem State.push_regs (v : Nat) : (s.push v).regs = s.regs := rfl
@[simp] theorem State.push_pc (v : Nat) : (s.push v).pc = s.pc := rfl
@[simp] theorem State.push_ir (v : Nat) : (s.push v).ir = s.ir := rfl
@[simp] theorem State.push_fl (v : Nat) : (s.push v).fl = s.fl := rfl
@[simp] theorem State.push_sp (v : Nat) : (s.push v).sp = s.sp - 1#8 := rfl
@[simp] theorem State.push_run (v : Nat) : (s.push v).run = s.run := rfl
@[simp] theorem State.push_fault (v : Nat) : (s.push v).fault = s.fault := rfl
@[simp] theorem State.push_out (v : Nat) : (s.push v).out = s.out := rfl
@[simp] theorem State.push_mem (v : Nat) : (s.push v).mem = s.mem.write (s.sp - 1#8).toNat v := rfl

@[simp] theorem State.dropTop_regs : (s.dropTop).regs = s.regs := rfl
@[simp] theorem State.dropTop_pc : (s.dropTop).pc = s.pc := rfl
@[simp] theorem State.dropTop_ir : (s.dropTop).ir = s.ir := rfl
@[simp] theorem State.dropTop_fl : (s.dropTop).fl = s.fl := rfl
@[simp] theorem State.dropTop_sp : (s.dropTop).sp = s.sp + 1#8 := rfl
@[simp] theorem State.dropTop_run : (s.dropTop).run = s.run := rfl
@[simp] theorem State.dropTop_fault : (s.dropTop).fault = s.fault := rfl
@[simp] theorem State.dropTop_out : (s.dropTop).out = s.out := rfl
@[simp] theorem State.dropTop_mem : (s.dropTop).mem = s.mem := rfl

@[simp] theorem State.emit_regs (v : Cell) : (s.emit v).regs = s.regs := rfl
@[simp] theorem State.emit_pc (v : Cell) : (s.emit v).pc = s.pc := rfl
@[simp] theorem State.emit_ir (v : Cell) : (s.emit v).ir = s.ir := rfl
@[simp] theorem State.emit_fl (v : Cell) : (s.emit v).fl = s.fl := rfl
@[simp] theorem State.emit_sp (v : Cell) : (s.emit v).sp = s.sp := rfl
@[simp] theorem State.emit_run (v : Cell) : (s.emit v).run = s.run := rfl
@[simp] theorem State.emit_fault (v : Cell) : (s.emit v).fault = s.fault := rfl
@[simp] theorem State.emit_out (v : Cell) : (s.emit v).out = s.out ++ [v] := rfl
@[simp] theorem State.emit_mem (v : Cell) : (s.emit v).mem = s.mem := rfl

@[simp] theorem State.halt_regs : (s.halt).regs = s.regs := rfl
@[simp] theorem State.halt_pc : (s.halt).pc = s.pc := rfl
@[simp] theorem State.halt_ir : (s.halt).ir = s.ir := rfl
@[simp] theorem State.halt_fl : (s.halt).fl = s.fl := rfl
@[simp] theorem State.halt_sp : (s.halt).sp = s.sp := rfl
@[simp] theorem State.halt_run : (s.halt).run = .halted := rfl
@[simp] theorem State.halt_fault : (s.halt).fault = s.fault := rfl
@[simp] theorem State.halt_out : (s.halt).out = s.out := rfl
@[simp] theorem State.halt_mem : (s.halt).mem = s.mem := rfl

@[simp] theorem State.setFl_regs (f : Cell) : (s.setFl f).regs = s.regs := rfl
@[simp] theorem State.setFl_pc (f : Cell) : (s.setFl f).pc = s.pc := rfl
@[simp] theorem State.setFl_ir (f : Cell) : (s.setFl f).ir = s.ir := rfl
@[simp] theorem State.setFl_fl (f : Cell) : (s.setFl f).fl = f := rfl
@[simp] theorem State.setFl_sp (f : Cell) : (s.setFl f).sp = s.sp := rfl
@[simp] theorem State.setFl_run (f : Cell) : (s.setFl f).run = s.run := rfl
@[simp] theorem State.setFl_fault (f : Cell) : (s.setFl f).fault = s.fault := rfl
@[simp] theorem State.setFl_out (f : Cell) : (s.setFl f).out = s.out := rfl
@[simp] theorem State.setFl_mem (f : Cell) : (s.setFl f).mem = s.mem := rfl

@[simp] theorem State.autoAdvance_regs (n : Nat) : (s.autoAdvance n).regs = s.regs := rfl
@[simp] theorem State.autoAdvance_pc (n : Nat) : (s.autoAdvance n).pc = BitVec.ofNat 8 ((s.pc.toNat + n + 1) % Config.capacity) := rfl
@[simp] theorem State.autoAdvance_ir (n : Nat) : (s.autoAdvance n).ir = s.ir := rfl
@[simp] theorem State.autoAdvance_fl (n : Nat) : (s.autoAdvance n).fl = s.fl := rfl
@[simp] theorem State.autoAdvance_sp (n : Nat) : (s.autoAdvance n).sp = s.sp := rfl
@[simp] theorem State.autoAdvance_run (n : Nat) : (s.autoAdvance n).run = s.run := rfl
@[simp] theorem State.autoAdvance_fault (n : Nat) : (s.autoAdvance n).fault = s.fault := rfl
@[simp] theorem State.autoAdvance_out (n : Nat) : (s.autoAdvance n).out = s.out := rfl
@[simp] theorem State.autoAdvance_mem (n : Nat) : (s.autoAdvance n).mem = s.mem := rfl

@[simp] theorem State.jump_regs (t : Cell) : (s.jump t).regs = s.regs := rfl
@[simp] theorem State.jump_pc (t : Cell) : (s.jump t).pc = BitVec.ofNat 8 (t.toNat &&& (Config.capacity - 1)) := rfl
@[simp] theorem State.jump_ir (t : Cell) : (s.jump t).ir = s.ir := rfl
@[simp] theorem State.jump_fl (t : Cell) : (s.jump t).fl = s.fl := rfl
@[simp] theorem State.jump_sp (t : Cell) : (s.jump t).sp = s.sp := rfl
@[simp] theorem State.jump_run (t : Cell) : (s.jump t).run = s.run := rfl
@[simp] theorem State.jump_fault (t : Cell) : (s.jump t).fault = s.fault := rfl
@[simp] theorem State.jump_out (t : Cell) : (s.jump t).out = s.out := rfl
@[simp] theorem State.jump_mem (t : Cell) : (s.jump t).mem = s.mem := rfl

@[simp] theorem State.raiseInvalidOpcode_regs (pc0 : Address) (op : Cell) : (s.raiseInvalidOpcode pc0 op).regs = s.regs := rfl
@[simp] theorem State.raiseInvalidOpcode_pc (pc0 : Address) (op : Cell) : (s.raiseInvalidOpcode pc0 op).pc = s.pc := rfl
@[simp] theorem State.raiseInvalidOpcode_ir (pc0 : Address) (op : Cell) : (s.raiseInvalidOpcode pc0 op).ir = s.ir := rfl
@[simp] theorem State.raiseInvalidOpcode_fl (pc0 : Address) (op : Cell) : (s.raiseInvalidOpcode pc0 op).fl = s.fl := rfl
@[simp] theorem State.raiseInvalidOpcode_sp (pc0 : Address) (op : Cell) : (s.raiseInvalidOpcode pc0 op).sp = s.sp := rfl
@[simp] theorem State.raiseInvalidOpcode_run (pc0 : Address) (op : Cell) : (s.raiseInvalidOpcode pc0 op).run = .halted := rfl
@[simp] theorem State.raiseInvalidOpcode_fault (pc0 : Address) (op : Cell) : (s.raiseInvalidOpcode pc0 op).fault = some (.invalidOpcode pc0 op) := rfl
@[simp] theorem State.raiseInvalidOpcode_out (pc0 : Address) (op : Cell) : (s.raiseInvalidOpcode pc0 op).out = s.out := rfl
@[simp] theorem State.raiseInvalidOpcode_mem (pc0 : Address) (op : Cell) : (s.raiseInvalidOpcode pc0 op).mem = s.mem := rfl

@[simp] theorem State.latchOpcode_regs : (s.latchOpcode).regs = s.regs := rfl
@[simp] theorem State.latchOpcode_pc : (s.latchOpcode).pc = s.pc := rfl
@[simp] theorem State.latchOpcode_ir : (s.latchOpcode).ir = s.mem.read s.pc.toNat := rfl
@[simp] theorem State.latchOpcode_fl : (s.latchOpcode).fl = s.fl := rfl
@[simp] theorem State.latchOpcode_sp : (s.latchOpcode).sp = s.sp := rfl
@[simp] theorem State.latchOpcode_run : (s.latchOpcode).run = s.run := rfl
@[simp] theorem State.latchOpcode_fault : (s.latchOpcode).fault = s.fault := rfl
@[simp] theorem State.latchOpcode_out : (s.latchOpcode).out = s.out := rfl
@[simp] theorem State.latchOpcode_mem : (s.latchOpcode).mem = s.mem := rfl

@[simp] theorem State.withFetchWord_regs (nbits w : Nat) : (s.withFetchWord nbits w).regs = s.regs := rfl
@[simp] theorem State.withFetchWord_pc (nbits w : Nat) : (s.withFetchWord nbits w).pc = s.pc := rfl
@[simp] theorem State.withFetchWord_ir (nbits w : Nat) : (s.withFetchWord nbits w).ir = s.ir := rfl
@[simp] theorem State.withFetchWord_fl (nbits w : Nat) : (s.withFetchWord nbits w).fl = s.fl := rfl
@[simp] theorem State.withFetchWord_sp (nbits w : Nat) : (s.withFetchWord nbits w).sp = s.sp := rfl
@[simp] theorem State.withFetchWord_run (nbits w : Nat) : (s.withFetchWord nbits w).run = .running := rfl
@[simp] theorem State.withFetchWord_fault (nbits w : Nat) : (s.withFetchWord nbits w).fault = s.fault := rfl
@[simp] theorem State.withFetchWord_out (nbits w : Nat) : (s.withFetchWord nbits w).out = s.out := rfl
@[simp] theorem State.withFetchWord_mem (nbits w : Nat) : (s.withFetchWord nbits w).mem = s.mem.writeCells s.pc.toNat (tableWordBytes nbits w) := rfl

/-! ## Reads -/

theorem State.getReg_def (r : Reg) : s.getReg r = s.regs[r] := rfl

@[simp] theorem State.top_def : s.top = s.mem.read s.sp.toNat := rfl

/-- A register read after a register write (10_state.md R10). -/
theorem State.getElem_set_reg (v : Vector Cell 8) (r q : Reg) (x : Cell) :
    (v.set r.val x r.isLt)[q] = if r = q then x else v[q] := by
  simp [Vector.getElem_set, Fin.ext_iff]

theorem State.getReg_setReg (r q : Reg) (v : Cell) :
    (s.setReg r v).getReg q = if r = q then v else s.getReg q :=
  State.getElem_set_reg s.regs r q v

/-! ## Reset -/

@[simp] theorem State.reset_mem : State.reset.mem = [] := rfl

theorem State.reset_mem_wf : State.reset.mem.wf := by decide

end Sys2Proof.Machine
end

