-- ==== Sys2Proof/Laws/Exec.lean ====
section
/-! SUPPORT. One lemma per instruction that says its whole effect as one record update, and the few facts about the shared
operations they are built from. -/

namespace Sys2Proof.Machine

/-- A Cell as a jump target is the address itself, since C = 256 (40_cycle.md R88). -/
@[simp] theorem State.jump_eq (s : State) (t : Cell) : s.jump t = { s with pc := t } := by
  have : BitVec.ofNat 8 (t.toNat &&& (Config.capacity - 1)) = t := by revert t; decide
  exact congrArg (fun pc => { s with pc := pc }) this

/-- Auto-advance as an addition on the 8-bit PC (10_state.md R14(a)). -/
theorem State.autoAdvance_eq (s : State) (n : Nat) :
    s.autoAdvance n = { s with pc := s.pc + BitVec.ofNat 8 (n + 1) } := by
  unfold State.autoAdvance
  congr 1
  apply BitVec.eq_of_toNat_eq
  simp [Nat.add_assoc]

/-- FL after the flag update of CMP: E set or cleared, the other bits kept (43_alu.md R114). -/
theorem applyFlags_compare (fl va vb : Cell) :
    applyFlags fl (compareFlags va vb) = if va = vb then fl ||| 0x01#8 else fl &&& 0xFE#8 := by
  by_cases h : va = vb
  · simp [h, applyFlags, compareFlags, putFlag]
  · have : (va == vb) = false := beq_false_of_ne h
    simp [h, this, applyFlags, compareFlags, putFlag]

variable (s : State) (a b : Cell)

theorem execNop_eq : execNop s = .next { s with pc := s.pc + 1#8 } := by
  simp [execNop, State.autoAdvance_eq]

theorem execHlt_eq : execHlt s = .next { s with pc := s.pc + 1#8, run := .halted } := by
  simp [execHlt, State.autoAdvance_eq, State.halt]

theorem execLdi_eq : execLdi a b s =
    .next { s with pc := s.pc + 3#8, regs := s.regs.set (rsel a).val b (rsel a).isLt } := by
  simp [execLdi, State.autoAdvance_eq, State.setReg]

theorem execAdd_eq : execAdd a b s =
    .next { s with
      pc := s.pc + 3#8
      regs := s.regs.set (rsel a).val (s.regOperand a + s.regOperand b) (rsel a).isLt } := by
  have : BitVec.ofNat 8 (((s.regOperand a).toNat + (s.regOperand b).toNat) % 256)
      = s.regOperand a + s.regOperand b := by
    apply BitVec.eq_of_toNat_eq; simp
  simp [execAdd, State.autoAdvance_eq, State.aluHandler, State.writeBack, alu, State.setReg, this]

theorem execMul_eq : execMul a b s =
    .next { s with
      pc := s.pc + 3#8
      regs := s.regs.set (rsel a).val (s.regOperand a * s.regOperand b) (rsel a).isLt } := by
  have : BitVec.ofNat 8 (((s.regOperand a).toNat * (s.regOperand b).toNat) % 256)
      = s.regOperand a * s.regOperand b := by
    apply BitVec.eq_of_toNat_eq; simp
  simp [execMul, State.autoAdvance_eq, State.aluHandler, State.writeBack, alu, State.setReg, this]

theorem execCmp_eq : execCmp a b s =
    .next { s with
      pc := s.pc + 3#8
      fl := if s.regOperand a = s.regOperand b then s.fl ||| 0x01#8 else s.fl &&& 0xFE#8 } := by
  simp [execCmp, State.autoAdvance_eq, State.aluHandler, State.writeBack, alu, State.setFl, applyFlags_compare]

theorem execPrn_eq : execPrn a s = .next { s with pc := s.pc + 2#8, out := s.out ++ [s.regOperand a] } := by
  simp [execPrn, State.autoAdvance_eq, State.emit]

theorem execPush_eq : execPush a s =
    .next { s with
      pc := s.pc + 2#8
      sp := s.sp - 1#8
      mem := s.mem.write (s.sp - 1#8).toNat (s.regOperand a).toNat } := by
  simp [execPush, State.autoAdvance_eq, State.push]

theorem execPop_eq : execPop a s =
    .next { s with
      pc := s.pc + 2#8
      sp := s.sp + 1#8
      regs := s.regs.set (rsel a).val (s.mem.read s.sp.toNat) (rsel a).isLt } := by
  simp [execPop, State.autoAdvance_eq, State.setReg, State.dropTop]

theorem execCall_eq : execCall a s =
    .next { s with
      pc := s.regOperand a
      sp := s.sp - 1#8
      mem := s.mem.write (s.sp - 1#8).toNat ((s.pc.toNat + 2) % 256) } := by
  simp [execCall, State.push, State.returnAddress]

theorem execRet_eq : execRet s = .next { s with pc := s.mem.read s.sp.toNat, sp := s.sp + 1#8 } := by
  simp [execRet, State.dropTop]

end Sys2Proof.Machine
end

