-- ==== Sys2Proof/Laws/Memory.lean ====
section
/-! SUPPORT. The laws of the memory port: read after write, the canonical form is kept, equal reads make equal memories. -/

namespace Sys2Proof.Machine

theorem normalise_def (a : Int) : normalise a = (a % 256).toNat := rfl

theorem normalise_lt (a : Int) : normalise a < 256 := by
  rw [normalise_def]; omega

/-- On the addresses the core presents, normalisation is the remainder mod C (20_memory.md R40). -/
@[simp] theorem normalise_natCast (n : Nat) : normalise (n : Int) = n % 256 := by
  simp only [normalise_def]; omega

theorem normalise_eq_iff (a b : Int) : normalise a = normalise b ↔ a % 256 = b % 256 := by
  simp only [normalise_def]; omega

@[simp] theorem Memory.read_nil (a : Int) : Memory.read [] a = Config.unlistedCell := rfl

/-! ## The list operations -/

theorem Memory.cellAt_of_lt {m : Memory} {a : Nat} (h : ∀ p ∈ m, a < p.1) :
    Memory.cellAt m a = Config.unlistedCell := by
  induction m with
  | nil => rfl
  | cons p m ih =>
    obtain ⟨k, w⟩ := p
    have hk : a < k := h (k, w) (by simp)
    rw [Memory.cellAt, if_neg (by omega)]
    exact ih fun q hq => h q (by simp [hq])

theorem Memory.cellAt_cons (k : Nat) (w : Cell) (m : Memory) (b : Nat) :
    Memory.cellAt ((k, w) :: m) b = if k = b then w else Memory.cellAt m b := rfl

theorem Memory.cellAt_put {m : Memory} (h : m.Pairwise fun p q => p.1 < q.1) (a b : Nat) (v : Cell) :
    Memory.cellAt (Memory.put m a v) b = if b = a then v else Memory.cellAt m b := by
  induction m with
  | nil =>
    unfold Memory.put
    by_cases hv : v = Config.unlistedCell
    · simp [hv, Memory.cellAt]
    · simp [hv, Memory.cellAt, eq_comm]
  | cons p m ih =>
    obtain ⟨k, w⟩ := p
    obtain ⟨hk, hm⟩ := List.pairwise_cons.mp h
    have ih := ih hm
    have above : ∀ c, c ≤ k → Memory.cellAt m c = Config.unlistedCell := fun c hc =>
      Memory.cellAt_of_lt fun q hq => by have : k < q.1 := hk q hq; omega
    unfold Memory.put
    rcases Nat.lt_trichotomy a k with hak | rfl | hak
    · rw [if_pos hak]
      by_cases hv : v = Config.unlistedCell
      · rw [if_pos hv]
        by_cases hb : b = a
        · rw [if_pos hb, Memory.cellAt_cons, if_neg (by omega), above b (by omega), hv]
        · rw [if_neg hb]
      · rw [if_neg hv, Memory.cellAt_cons]
        simp only [eq_comm]
    · rw [if_neg (by omega), if_pos rfl]
      by_cases hb : b = a
      · by_cases hv : v = Config.unlistedCell
        · rw [if_pos hv, if_pos hb, above b (by omega), hv]
        · rw [if_neg hv, if_pos hb, Memory.cellAt_cons, if_pos hb.symm]
      · by_cases hv : v = Config.unlistedCell
        · rw [if_pos hv, if_neg hb, Memory.cellAt_cons, if_neg (Ne.symm hb)]
        · rw [if_neg hv, if_neg hb, Memory.cellAt_cons, Memory.cellAt_cons, if_neg (Ne.symm hb), if_neg (Ne.symm hb)]
    · rw [if_neg (by omega), if_neg (by omega), Memory.cellAt_cons, Memory.cellAt_cons, ih]
      by_cases hkb : k = b
      · rw [if_pos hkb, if_neg (by omega), if_pos hkb]
      · rw [if_neg hkb, if_neg hkb]

theorem Memory.mem_put {m : Memory} {a : Nat} {v : Cell} {p : Host.Cell} (h : p ∈ m.put a v) :
    p ∈ m ∨ (p = (a, v) ∧ v ≠ Config.unlistedCell) := by
  induction m with
  | nil =>
    unfold Memory.put at h
    split at h <;> simp_all
  | cons q m ih =>
    unfold Memory.put at h
    split at h <;> [skip; split at h] <;> try split at h
    all_goals (simp only [List.mem_cons] at *; tauto)

theorem Memory.put_wf {m : Memory} (h : m.wf) {a : Nat} (ha : a < Config.capacity) (v : Cell) : (m.put a v).wf := by
  obtain ⟨hs, hv⟩ := h
  refine ⟨?_, fun p hp => ?_⟩
  · induction m with
    | nil => unfold Memory.put; split <;> simp
    | cons q m ih =>
      obtain ⟨hq, hm⟩ := List.pairwise_cons.mp hs
      have ih := ih hm fun p hp => hv p (by simp [hp])
      unfold Memory.put
      split
      · split
        · exact hs
        · refine List.pairwise_cons.mpr ⟨fun p hp => ?_, hs⟩
          rcases List.mem_cons.mp hp with rfl | hp
          · assumption
          · have := hq p hp; simp_all; omega
      · split
        · subst_vars
          split
          · exact hm
          · exact List.pairwise_cons.mpr ⟨fun p hp => hq p hp, hm⟩
        · refine List.pairwise_cons.mpr ⟨fun p hp => ?_, ih⟩
          rcases Memory.mem_put hp with hp | ⟨rfl, -⟩
          · exact hq p hp
          · simp only at *; omega
  · rcases Memory.mem_put hp with hp | ⟨rfl, hne⟩
    · exact hv p hp
    · exact ⟨ha, hne⟩

/-! ## The port -/

/-- `write` then `read` (20_memory.md R42, R43). -/
theorem Memory.read_write {m : Memory} (h : m.wf) (a b : Int) (v : Nat) :
    (m.write a v).read b = if b % 256 = a % 256 then BitVec.ofNat 8 (v &&& 255) else m.read b := by
  unfold Memory.read Memory.write
  rw [Memory.cellAt_put h.1]
  simp only [normalise_eq_iff]

theorem Memory.read_write_same {m : Memory} (h : m.wf) (a : Int) (v : Nat) :
    (m.write a v).read a = BitVec.ofNat 8 (v &&& 255) := by
  simp [Memory.read_write h]

theorem Memory.read_write_other {m : Memory} (h : m.wf) {a b : Int} (hab : b % 256 ≠ a % 256) (v : Nat) :
    (m.write a v).read b = m.read b := by
  simp [Memory.read_write h, hab]

@[simp] theorem and_255 (v : Cell) : v &&& 255#8 = v := by
  revert v; decide

/-- A Cell written is not changed by the port's reduction (20_memory.md R42). -/
theorem ofNat_toNat_and_255 (v : Cell) : BitVec.ofNat 8 (v.toNat &&& 255) = v := by
  simp

theorem Memory.write_wf {m : Memory} (h : m.wf) (a : Int) (v : Nat) : (m.write a v).wf :=
  Memory.put_wf h (normalise_lt a) _

theorem Memory.writeCells_wf {m : Memory} (h : m.wf) (a : Int) (vs : List Cell) : (m.writeCells a vs).wf := by
  induction vs generalizing m a with
  | nil => exact h
  | cons v vs ih => exact ih (Memory.write_wf h a _) (a + 1)

theorem Memory.load_wf {m : Memory} (h : m.wf) (image : List Cell) : (m.load image).wf :=
  Memory.writeCells_wf h 0 image

theorem replay_wf {m : Memory} (h : m.wf) (ts : List Transaction) : (replay ts m).wf := by
  induction ts generalizing m with
  | nil => exact h
  | cons t ts ih => cases t <;> [exact ih h; exact ih (Memory.write_wf h _ _)]

end Sys2Proof.Machine
end

