-- ==== Sys2Proof/Laws/PerInstr.lean ====
section
/-! SUPPORT. The family EncodingShape: what the spec requires of every instruction's encoding. -/

namespace Sys2Proof.Laws.EncodingShape

/-- The length of the encoding is 1 + N with N = opcode[7:6] at most 2, the PC-control bit is set for CALL and RET alone, and
the canonical form is well formed (30_encoding.md R60, R63, R67, R71). -/
def Statement (i : Instr) : Prop :=
  (encode i).length = 1 + operandCount i.mnemonic.byte ∧
  operandCount i.mnemonic.byte ≤ 2 ∧
  (setsPcItself i.mnemonic.byte = true ↔ i.mnemonic = .call ∨ i.mnemonic = .ret) ∧
  i.canonical.wellFormed = true

theorem masked_byte_assembled (a : Cell) : assembledRegByte (a &&& 0x07#8) = true := by
  revert a; decide

theorem masked_bytes_assembled (a b : Cell) :
    (assembledRegByte (a &&& 0x07#8) && assembledRegByte (b &&& 0x07#8)) = true := by
  simp [masked_byte_assembled]

theorem of_mnemonic (i : Instr) (hwf : i.canonical.wellFormed = true) : Statement i := by
  refine ⟨by rw [encode, List.length_cons, operandCount_byte, Nat.add_comm], ?_, ?_, hwf⟩
  · generalize i.mnemonic = m; cases m <;> decide
  · generalize i.mnemonic = m; cases m <;> decide

theorem nop : Statement .nop := of_mnemonic _ (rfl)
theorem hlt : Statement .hlt := of_mnemonic _ (rfl)
theorem ldi (a b : Cell) : Statement (.ldi a b) := of_mnemonic _ (masked_byte_assembled a)
theorem add (a b : Cell) : Statement (.add a b) := of_mnemonic _ (masked_bytes_assembled a b)
theorem mul (a b : Cell) : Statement (.mul a b) := of_mnemonic _ (masked_bytes_assembled a b)
theorem cmp (a b : Cell) : Statement (.cmp a b) := of_mnemonic _ (masked_bytes_assembled a b)
theorem prn (a : Cell) : Statement (.prn a) := of_mnemonic _ (masked_byte_assembled a)
theorem push (a : Cell) : Statement (.push a) := of_mnemonic _ (masked_byte_assembled a)
theorem pop (a : Cell) : Statement (.pop a) := of_mnemonic _ (masked_byte_assembled a)
theorem call (a : Cell) : Statement (.call a) := of_mnemonic _ (masked_byte_assembled a)
theorem ret : Statement .ret := of_mnemonic _ (rfl)

end Sys2Proof.Laws.EncodingShape
end

