-- ==== Sys2Proof/Laws/Step.lean ====
section
/-! SUPPORT. What a step request can do, said once: it is ignored, it takes the exception, or it runs an instruction. -/

namespace Sys2Proof.Machine

variable {s : State}

/-- No instruction is fetched exactly when the latched byte is unregistered (40_cycle.md R85). -/
theorem fetchInstr_none_iff : s.fetchInstr = none ↔ lookup s.ir = none := by
  unfold State.fetchInstr
  cases h : lookup s.ir with
  | none => simp
  | some m => rw [lookup_eq_some h]; cases m <;> simp [Mnemonic.byte, operandCount, Mnemonic.build, operand1, operand2]

/-- An instruction fetched is the one its opcode byte names. -/
theorem fetchInstr_mnemonic {i : Instr} (h : s.fetchInstr = some i) : s.ir = i.mnemonic.byte := by
  unfold State.fetchInstr at h
  cases hl : lookup s.ir with
  | none => simp [hl] at h
  | some m =>
    rw [hl] at h
    rw [lookup_eq_some hl] at h ⊢
    cases m <;> simp [Mnemonic.byte, operandCount, Mnemonic.build, operand1, operand2] at h <;> subst h <;> rfl

theorem step_halted (h : s.run = .halted) : step s = .next s := by
  simp [step, h, stepHalted]

theorem step_invalid (h : s.run = .running) (hl : lookup (s.mem.read s.pc.toNat) = none) :
    step s = .next (s.latchOpcode.raiseInvalidOpcode s.pc (s.mem.read s.pc.toNat)) := by
  have : s.latchOpcode.fetchInstr = none := fetchInstr_none_iff.mpr hl
  simp [step, h, this, takeInvalidOpcode]

theorem step_exec (h : s.run = .running) {i : Instr} (hi : s.latchOpcode.fetchInstr = some i) :
    step s = exec i s.latchOpcode := by
  simp [step, h, hi]

/-- The three things a step request can do (40_cycle.md R90). -/
theorem step_cases (s : State) :
    (s.run = .halted ∧ step s = .next s) ∨
    (s.run = .running ∧ lookup (s.mem.read s.pc.toNat) = none ∧
      step s = .next (s.latchOpcode.raiseInvalidOpcode s.pc (s.mem.read s.pc.toNat))) ∨
    (s.run = .running ∧ ∃ i, s.latchOpcode.fetchInstr = some i ∧
      s.mem.read s.pc.toNat = i.mnemonic.byte ∧ step s = exec i s.latchOpcode) := by
  cases h : s.run with
  | halted => exact .inl ⟨rfl, step_halted h⟩
  | running =>
    cases hi : s.latchOpcode.fetchInstr with
    | none =>
      have hl : lookup (s.mem.read s.pc.toNat) = none := fetchInstr_none_iff.mp hi
      exact .inr (.inl ⟨rfl, hl, step_invalid h hl⟩)
    | some i => exact .inr (.inr ⟨rfl, i, rfl, fetchInstr_mnemonic hi, step_exec h hi⟩)

theorem requests_zero (s : State) : requests 0 s = .next s := rfl

/-- One more step request comes first (10_state.md R33). -/
theorem requests_succ {k : Nat} {s t : State} (h : step s = .next t) : requests (k + 1) s = requests k t := by
  have h' : Sys2Proof.core.step s = .next t := h
  simp only [requests, Host.Core.run, h']
  rfl

end Sys2Proof.Machine
end

