-- ==== Sys2Proof/Tests/Slice0.lean ====
section
/-! SUPPORT. The model's own tests: the well-formedness smoke, decoding from words written out bit by bit, at most two
one-step tests per instruction with the expected values of 95_test_vectors.md, and a witness for the hypotheses of each
obligation that has any. -/

namespace Sys2Proof.Tests

open Sys2Proof.Machine

/-! ## Well-formedness: one ill-formed term for each check -/

theorem test_wellFormed_refuses_ldi : Instr.wellFormed (.ldi 0x08#8 0x00#8) = false := by decide
theorem test_wellFormed_refuses_add_first : Instr.wellFormed (.add 0x08#8 0x00#8) = false := by decide
theorem test_wellFormed_refuses_add_second : Instr.wellFormed (.add 0x00#8 0x08#8) = false := by decide
theorem test_wellFormed_refuses_mul_first : Instr.wellFormed (.mul 0xFF#8 0x07#8) = false := by decide
theorem test_wellFormed_refuses_mul_second : Instr.wellFormed (.mul 0x07#8 0xFF#8) = false := by decide
theorem test_wellFormed_refuses_cmp_first : Instr.wellFormed (.cmp 0x10#8 0x00#8) = false := by decide
theorem test_wellFormed_refuses_cmp_second : Instr.wellFormed (.cmp 0x00#8 0x10#8) = false := by decide
theorem test_wellFormed_refuses_prn : Instr.wellFormed (.prn 0x80#8) = false := by decide
theorem test_wellFormed_refuses_push : Instr.wellFormed (.push 0x08#8) = false := by decide
theorem test_wellFormed_refuses_pop : Instr.wellFormed (.pop 0x08#8) = false := by decide
theorem test_wellFormed_refuses_call : Instr.wellFormed (.call 0x08#8) = false := by decide
theorem test_wellFormed_accepts : Instr.wellFormed (.ldi 0x07#8 0xFF#8) = true := by decide

/-! ## Decoding, from the bits of 30_encoding.md R66: operand count (7:6), bit 5, PC control (4), identifier (3:0) -/

theorem test_decode_nop : decode [0b00_0_0_0000#8] = .instr .nop [] := by decide
theorem test_decode_hlt : decode [0b00_0_0_0001#8] = .instr .hlt [] := by decide
theorem test_decode_ldi : decode [0b10_0_0_0010#8, 0x00#8, 0x08#8] = .instr (.ldi 0x00#8 0x08#8) [] := by decide
theorem test_decode_add : decode [0b10_1_0_0000#8, 0x0A#8, 0xF9#8] = .instr (.add 0x0A#8 0xF9#8) [] := by decide
theorem test_decode_mul : decode [0b10_1_0_0010#8, 0x01#8, 0x02#8] = .instr (.mul 0x01#8 0x02#8) [] := by decide
theorem test_decode_cmp : decode [0b10_1_0_0111#8, 0x00#8, 0x02#8] = .instr (.cmp 0x00#8 0x02#8) [] := by decide
theorem test_decode_prn : decode [0b01_0_0_0111#8, 0x05#8] = .instr (.prn 0x05#8) [] := by decide
theorem test_decode_push : decode [0b01_0_0_0101#8, 0x02#8, 0x01#8] = .instr (.push 0x02#8) [0x01#8] := by decide
theorem test_decode_pop : decode [0b01_0_0_0110#8, 0x03#8] = .instr (.pop 0x03#8) [] := by decide
theorem test_decode_call : decode [0b01_0_1_0000#8, 0x01#8] = .instr (.call 0x01#8) [] := by decide
theorem test_decode_ret : decode [0b00_0_1_0001#8] = .instr .ret [] := by decide

/-- V-INV-2 to V-INV-5: bytes that share all but one field with a registered opcode are none themselves. -/
theorem test_decode_unregistered : ([0x02#8, 0x80#8, 0x51#8, 0xFF#8, 0xC0#8, 0x10#8, 0x60#8] : List Cell).map lookup =
    [none, none, none, none, none, none, none] := by decide

theorem test_decode_truncated : decode [0x82#8, 0x00#8] = .rejected (.truncated 0x82#8) := by decide
theorem test_decode_noBytes : decode [] = .rejected .noBytes := by decide

/-- Bits 7:0 of a table word are the opcode byte, bits 15:8 the first operand, bits 23:16 the second. -/
theorem test_decodeTableWord : decodeTableWord 24 0x0908A0 = some (.add 0x08#8 0x09#8) := by decide

/-! ## One step -/

/-- The state after reset with PC moved and Cells stored from PC on. -/
def at' (pc : Nat) (bytes : List Cell) : State :=
  { State.reset with pc := BitVec.ofNat 8 pc, mem := Memory.writeCells [] pc bytes }

/-- A value put into a register beforehand. -/
def with' (s : State) (r : Reg) (v : Cell) : State := s.setReg r v

/-- SP moved beforehand. -/
def sp' (s : State) (v : Cell) : State := { s with sp := v }

/-- One Cell stored beforehand. -/
def cell' (s : State) (addr : Nat) (v : Cell) : State := { s with mem := s.mem.write addr v.toNat }

/-- The next state of an outcome, if there is one. -/
def next? : Result → Option State
  | .next t => some t
  | .fault _ => none
  | .refused _ => none

/-- V-NOP-2 -/
theorem test_nop_wraps : (next? (step (at' 0xFF [0x00#8]))).map (·.pc) = some 0x00#8 := by decide

/-- V-HLT-1 -/
theorem test_hlt : (next? (step (at' 0x0B [0x01#8]))).map (fun t => (t.run, t.fault, t.pc)) =
    some (.halted, none, 0x0C#8) := by decide

/-- V-HLT-3 -/
theorem test_halted_unchanged : next? (step { at' 0x0C [0x82#8] with run := .halted }) =
    some { at' 0x0C [0x82#8] with run := .halted } := by decide

/-- V-LDI-4 -/
theorem test_ldi_selects_low_bits : (next? (step (at' 0x00 [0x82#8, 0x0A#8, 0x55#8]))).map
    (fun t => (t.getReg 2, t.pc)) = some (0x55#8, 0x03#8) := by decide

/-- V-LDI-6 -/
theorem test_ldi_operands_wrap : (next? (step (at' 0xFF [0x82#8, 0x04#8, 0x7F#8]))).map
    (fun t => (t.getReg 4, t.pc)) = some (0x7F#8, 0x02#8) := by decide

/-- V-ADD-5 -/
theorem test_add_same_register : (next? (step (with' (at' 0 [0xA0#8, 0x00#8, 0x00#8]) 0 0x90#8))).map
    (fun t => (t.getReg 0, t.pc)) = some (0x20#8, 0x03#8) := by decide

/-- V-ADD-7 -/
theorem test_add_selects_low_bits : (next? (step (with' (with' (at' 0 [0xA0#8, 0x0A#8, 0xF9#8]) 2 3#8) 1 4#8))).map
    (fun t => (t.getReg 2, t.getReg 1)) = some (7#8, 4#8) := by decide

/-- V-MUL-3 -/
theorem test_mul_wraps : (next? (step (with' (with' (at' 0 [0xA2#8, 0x00#8, 0x01#8]) 0 20#8) 1 13#8))).map
    (fun t => (t.getReg 0, t.fl)) = some (4#8, 0x00#8) := by decide

/-- V-MUL-4 -/
theorem test_mul_square : (next? (step (with' (at' 0 [0xA2#8, 0x01#8, 0x01#8]) 1 17#8))).map
    (fun t => t.getReg 1) = some 33#8 := by decide

/-- V-CMP-2 -/
theorem test_cmp_unequal_clears : (next? (step { with' (with' (at' 0 [0xA7#8, 0x00#8, 0x01#8]) 0 5#8) 1 6#8 with fl := 0x01#8 })).map
    (fun t => (t.fl, t.pc)) = some (0x00#8, 0x03#8) := by decide

/-- V-CMP-5 -/
theorem test_cmp_equal_sets : (next? (step (with' (at' 0 [0xA7#8, 0x03#8, 0x03#8]) 3 0xAB#8))).map
    (fun t => (t.fl, t.getReg 3)) = some (0x01#8, 0xAB#8) := by decide

/-- V-PRN-2 -/
theorem test_prn_appends : (next? (step { at' 0 [0x47#8, 0x05#8] with out := [17#8] })).map
    (fun t => (t.out, t.pc)) = some ([17#8, 0#8], 0x02#8) := by decide

/-- V-PUSH-2 -/
theorem test_push_sp_wraps : (next? (step (sp' (with' (at' 0 [0x45#8, 0x01#8]) 1 0x99#8) 0x00#8))).map
    (fun t => (t.sp, t.mem.read 0xFF, t.pc)) = some (0xFF#8, 0x99#8, 0x02#8) := by decide

/-- V-PUSH-3 -/
theorem test_push_onto_itself : (next? (step (sp' (with' (at' 0x20 [0x45#8, 0x02#8]) 2 0xEE#8) 0x22#8))).map
    (fun t => (t.sp, t.mem.read 0x21, t.pc)) = some (0x21#8, 0xEE#8, 0x22#8) := by decide

/-- V-POP-1 -/
theorem test_pop : (next? (step (sp' (cell' (at' 0x05 [0x46#8, 0x03#8]) 0xF3 5#8) 0xF3#8))).map
    (fun t => (t.getReg 3, t.sp, t.mem.read 0xF3, t.pc)) = some (5#8, 0xF4#8, 5#8, 0x07#8) := by decide

/-- V-POP-2 -/
theorem test_pop_sp_wraps : (next? (step (sp' (cell' (at' 0x00 [0x46#8, 0x01#8]) 0xFF 0x77#8) 0xFF#8))).map
    (fun t => (t.getReg 1, t.sp)) = some (0x77#8, 0x00#8) := by decide

/-- V-CALL-1 -/
theorem test_call : (next? (step (with' (at' 0x10 [0x50#8, 0x01#8]) 1 0x30#8))).map
    (fun t => (t.sp, t.mem.read 0xF3, t.pc)) = some (0xF3#8, 0x12#8, 0x30#8) := by decide

/-- V-CALL-3 -/
theorem test_call_at_the_top : (next? (step (with' (at' 0xFF [0x50#8, 0x01#8]) 1 0x40#8))).map
    (fun t => (t.mem.read 0xF3, t.pc)) = some (0x01#8, 0x40#8) := by decide

/-- V-RET-2 -/
theorem test_ret_sp_wraps : (next? (step (sp' (cell' (at' 0x30 [0x11#8]) 0xFF 0x20#8) 0xFF#8))).map
    (fun t => (t.pc, t.sp)) = some (0x20#8, 0x00#8) := by decide

/-- V-RET-3 -/
theorem test_ret_empty_stack : (next? (step (at' 0x30 [0x11#8]))).map
    (fun t => (t.pc, t.sp)) = some (0x00#8, 0xF5#8) := by decide

/-- V-INV-1 -/
theorem test_invalid_opcode : (next? (step (at' 0x33 [0xC0#8]))).map
    (fun t => (t.run, t.fault, t.ir, t.pc)) =
    some (.halted, some (.invalidOpcode 0x33#8 0xC0#8), 0xC0#8, 0x33#8) := by decide

/-- V-MEM-2 and V-MEM-3 -/
theorem test_memory_wraps_and_masks :
    (Memory.write [] 0x3F3 0x12).read 0xF3 = 0x12#8 ∧ (Memory.write [] 0x10 0x1FF).read 0x10 = 0xFF#8 := by decide

/-- Writing what an unlisted Cell reads as removes the entry (the model's canonical form). -/
theorem test_write_zero_removes : (Memory.write [] 0x10 7).write 0x110 0x100 = [] := by decide

/-- 70_reset_and_hazards.md R175: the Cells after address 0xFF go to the beginning of memory. -/
theorem test_writeCells_wraps : (Memory.writeCells [(0x00, 9#8)] 0xFE [0x01#8, 0x02#8, 0x03#8]).read 0 = 0x03#8 := by decide

/-- The word's instruction runs as the first one after reset. -/
theorem test_withFetchWord : (next? (step (State.reset.withFetchWord 24 0x550A82))).map (fun t => t.getReg 2) =
    some 0x55#8 := by decide

/-! ## Witnesses: concrete states and operands that meet the hypotheses of the obligations -/

/-- A memory with two Cells listed. -/
def mem2 : Memory := [(0x10, 1#8), (0xF3, 5#8)]

/-- A running state with every kind of state off its reset value. -/
def busy : State :=
  { with' (with' State.reset 1 0x30#8) 2 0xEE#8 with pc := 0xFF#8, fl := 0x01#8, sp := 0xF3#8, out := [17#8], mem := mem2 }

theorem witness_OpcodeAssignmentConstraints :
    Mnemonic.byte .ldi = Mnemonic.byte .ldi ∧ Mnemonic.nop ∈ [Mnemonic.nop, .hlt, .ret] ∧
    Mnemonic.ldi ≠ .call ∧ Mnemonic.ldi ≠ .ret := by decide

theorem witness_IgnoredOperandBits : Instr.wellFormed (.add 0x07#8 0x00#8) = true := by decide

theorem witness_EncodeOfDecode : decode [0xA0#8, 0x0A#8, 0xF9#8, 0x01#8] = .instr (.add 0x0A#8 0xF9#8) [0x01#8] := by decide

theorem witness_AssembledProgramsDiffer : assemble [.ldi 0#8 8#8, .hlt] = assemble [.ldi 0#8 8#8, .hlt] ∧
    assemble [.ldi 0#8 8#8, .hlt] = [0x82#8, 0x00#8, 0x08#8, 0x01#8] := by decide

/-- At the ends of the address space, on both sides of the wrap. -/
theorem witness_MemoryWriteContract :
    mem2.wf ∧ 0x100 &&& (Config.capacity - 1) = 0x000 &&& (Config.capacity - 1) ∧
    ¬ 0x0FF &&& (Config.capacity - 1) = 0x100 &&& (Config.capacity - 1) := by decide

theorem witness_AddressesWrap : mem2.wf := by decide

theorem witness_EqualReadsEqualMemories :
    mem2.wf ∧ ((Memory.write [] 0x1F3 0x105).write 0x10 1).wf ∧
    ∀ addr : Int, mem2.read addr = ((Memory.write [] 0x1F3 0x105).write 0x10 1).read addr :=
  ⟨by decide, by decide, fun addr => congrArg (Memory.read · addr) (by decide)⟩

theorem witness_WritesCommuteOrOverwrite :
    mem2.wf ∧ normalise 0 ≠ normalise 0xFF ∧ normalise 0 = normalise 0x100 := by decide

/-- A sequence longer than memory: its last element goes to address 0. -/
theorem witness_LoaderPlacesProgram :
    mem2.wf ∧ normalise 0xFF ≠ (List.replicate 256 0x01#8).length &&& (Config.capacity - 1) ∧
    normalise 0 = (List.replicate 256 0x01#8).length &&& (Config.capacity - 1) := by
  rw [List.length_replicate]
  decide

theorem witness_PushResult_CallResult_PushThenRetJumps : busy.mem.wf := by decide

theorem witness_RegisterInstructionsFrame :
    (∃ t, exec (.ldi 0x0A#8 0x55#8) busy = .next t ∧ t.getReg 2 = 0x55#8) ∧
    (∃ t, exec (.add 0x02#8 0x01#8) busy = .next t ∧ t.getReg 2 = 0x1E#8) ∧
    (∃ t, exec (.mul 0x02#8 0x01#8) busy = .next t ∧ t.getReg 2 = 0xA0#8) :=
  ⟨⟨_, rfl, by decide⟩, ⟨_, rfl, by decide⟩, ⟨_, rfl, by decide⟩⟩

theorem witness_NonStoringFrame :
    (∃ t, exec .nop busy = .next t ∧ t.pc = 0x00#8) ∧
    (∃ t, exec .hlt busy = .next t ∧ t.run = .halted) ∧
    (∃ t, exec (.cmp 0x02#8 0x01#8) busy = .next t ∧ t.fl = 0x00#8) ∧
    (∃ t, exec (.prn 0x02#8) busy = .next t ∧ t.out = [17#8, 0xEE#8]) :=
  ⟨⟨_, rfl, by decide⟩, ⟨_, rfl, by decide⟩, ⟨_, rfl, by decide⟩, ⟨_, rfl, by decide⟩⟩

/-- With SP at its boundary, so that the push lands at 0xFF. -/
theorem witness_StoringFrame :
    (sp' busy 0x00#8).mem.wf ∧
    (∃ t, exec (.push 0x02#8) (sp' busy 0x00#8) = .next t ∧ t.mem.read 0xFF = 0xEE#8) ∧
    (∃ t, exec (.call 0x01#8) (sp' busy 0x00#8) = .next t ∧ t.mem.read 0xFF = 0x01#8) :=
  ⟨by decide, ⟨_, rfl, by decide⟩, ⟨_, rfl, by decide⟩⟩

theorem witness_PoppingFrame :
    (∃ t, exec (.pop 0x03#8) busy = .next t ∧ t.getReg 3 = 5#8) ∧ (∃ t, exec .ret busy = .next t ∧ t.pc = 5#8) :=
  ⟨⟨_, rfl, by decide⟩, ⟨_, rfl, by decide⟩⟩

theorem witness_RegisterReadsAndWrites :
    (∃ t, exec (.add 0x02#8 0x01#8) busy = .next t) ∧ (3 : Reg) ∉ regWrites (.add 0x02#8 0x01#8) ∧
    (3 : Reg) ∉ regReads (.add 0x02#8 0x01#8) ∧
    (∃ t, exec (.ldi 0x02#8 0x01#8) busy = .next t) ∧ (2 : Reg) ∉ regReads (.ldi 0x02#8 0x01#8) ∧
    (2 : Reg) ∈ regWrites (.ldi 0x02#8 0x01#8) :=
  ⟨⟨_, rfl⟩, by decide, by decide, ⟨_, rfl⟩, by decide, by decide⟩

theorem witness_DataAccessOnlyByStackInstructions :
    busy.mem.wf ∧ (∃ t, exec (.push 0x02#8) busy = .next t) ∧ (∃ t, exec (.prn 0x02#8) busy = .next t) ∧
    (∀ a, Instr.prn 0x02#8 ≠ .push a ∧ Instr.prn 0x02#8 ≠ .call a) ∧
    (∃ t, exec (.pop 0x02#8) busy = .next t) ∧ Memory.read [(0xF3, 5#8)] 0xF3 = busy.mem.read busy.sp.toNat :=
  ⟨by decide, ⟨_, rfl⟩, ⟨_, rfl⟩, by simp, ⟨_, rfl⟩, by decide⟩

theorem witness_StackPointerWriters :
    (∃ t, exec (.push 0x02#8) (sp' busy 0x00#8) = .next t ∧ t.sp = 0xFF#8) ∧
    (∃ t, exec .ret (sp' busy 0xFF#8) = .next t ∧ t.sp = 0x00#8) ∧
    (∃ t, exec (.ldi 0x07#8 0x12#8) busy = .next t ∧ t.sp = 0xF3#8) :=
  ⟨⟨_, rfl, by decide⟩, ⟨_, rfl, by decide⟩, ⟨_, rfl, by decide⟩⟩

theorem witness_PcAdvance :
    (∃ t, exec (.ldi 0x07#8 0x12#8) busy = .next t ∧ t.pc = 0x02#8) ∧ setsPcItself (Instr.mnemonic (.ldi 0x07#8 0x12#8)).byte = false ∧
    (∃ t, exec (.call 0x01#8) busy = .next t ∧ t.pc = 0x30#8) ∧ setsPcItself (Instr.mnemonic (.call 0x01#8)).byte = true ∧
    (∃ t, exec .ret busy = .next t ∧ t.pc = 0x05#8) ∧ setsPcItself (Instr.mnemonic .ret).byte = true :=
  ⟨⟨_, rfl, by decide⟩, by decide, ⟨_, rfl, by decide⟩, by decide, ⟨_, rfl, by decide⟩, by decide⟩

/-- The step of a PRN, with FL and OUT off their reset values. -/
theorem witness_OutputOnlyByPrn_OutputNeverRead_FlagsNeverRead_FlagsOnlyByCmp :
    (∃ t, step { at' 0 [0x47#8, 0x05#8] with out := [17#8], fl := 0x01#8 } = .next t ∧ t.out = [17#8, 0#8]) ∧
    ({ at' 0 [0x47#8, 0x05#8] with out := [17#8] } : State).emissions ≠ [] ∧
    (∃ t, exec (.prn 0x05#8) busy = .next t) ∧ (∃ t, exec .ret busy = .next t ∧ ∀ a, Instr.ret ≠ .prn a) ∧
    (∃ t, exec .ret busy = .next t ∧ ∀ a b, Instr.ret ≠ .cmp a b) :=
  ⟨⟨_, rfl, by decide⟩, by decide, ⟨_, rfl⟩, ⟨_, rfl, by simp⟩, ⟨_, rfl, by simp⟩⟩

/-- Both ways to halt, a step that does not, and a step of a halted machine. -/
theorem witness_WhatHalts_FetchLatchesOpcode_InvalidOpcodeTaken_HaltedIsTerminal :
    (at' 0x0B [0x01#8]).run = .running ∧ (∃ t, step (at' 0x0B [0x01#8]) = .next t ∧ t.run = .halted) ∧
    lookup ((at' 0x33 [0xC0#8]).mem.read (at' 0x33 [0xC0#8]).pc.toNat) = none ∧
    (∃ t, step (at' 0x33 [0xC0#8]) = .next t ∧ t.run = .halted) ∧
    (∃ t, step State.reset = .next t ∧ t.run = .running) ∧
    (∃ t, step { State.reset with run := .halted } = .next t ∧ t.run = .halted) :=
  ⟨by decide, ⟨_, rfl, by decide⟩, by decide, ⟨_, rfl, by decide⟩, ⟨_, rfl, by decide⟩, ⟨_, rfl, by decide⟩⟩

/-- An instruction that lies across the top of memory. -/
theorem witness_StepRunsDecodedInstruction :
    (at' 0xFF [0x82#8, 0x04#8, 0x7F#8]).run = .running ∧
    decode (at' 0xFF [0x82#8, 0x04#8, 0x7F#8]).window = .instr (.ldi 0x04#8 0x7F#8) [] := by decide

/-- The invariant at a running state, at the end of a run by HLT and at a failed run. -/
theorem witness_ThreeOutcomes_StepKeepsInvariant :
    ((at' 0x0B [0x01#8]).Inv ∧ ∃ t, step (at' 0x0B [0x01#8]) = .next t ∧ t.run = .halted) ∧
    ((at' 0x33 [0xC0#8]).Inv ∧ ∃ t, step (at' 0x33 [0xC0#8]) = .next t ∧ t.fault = some (.invalidOpcode 0x33#8 0xC0#8)) ∧
    (busy.Inv ∧ ∃ t, step busy = .next t ∧ t.run = .running) ∧
    State.Inv { at' 0x33 [0xC0#8] with run := .halted, fault := some (.invalidOpcode 0x33#8 0xC0#8), ir := 0xC0#8 } :=
  ⟨⟨⟨by decide, by decide, fun _ h => (by cases h), fun h => (by cases h.1)⟩, _, rfl, by decide⟩,
   ⟨⟨by decide, by decide, fun _ h => (by cases h), fun h => (by cases h.1)⟩, _, rfl, by decide⟩,
   ⟨⟨by decide, by decide, fun _ h => (by cases h), fun h => (by cases h.1)⟩, _, rfl, by decide⟩,
   ⟨by decide, by decide, fun _ h => (by cases h; exact ⟨rfl, rfl, rfl, by decide⟩), fun h => (by cases h.2)⟩⟩

/-- A RET, and another memory that agrees with the first one only where the step reads. -/
theorem witness_MemoryOnlyThroughThePort :
    (∃ t, step (at' 0x30 [0x11#8, 0x07#8]) = .next t ∧ t.sp = 0xF5#8) ∧
    ∀ addr : Int, .read addr ∈ (at' 0x30 [0x11#8, 0x07#8]).transactions →
      Memory.read [(0x30, 0x11#8), (0x40, 1#8)] addr = (at' 0x30 [0x11#8, 0x07#8]).mem.read addr := by
  refine ⟨⟨_, rfl, by decide⟩, fun addr h => ?_⟩
  have ht : (at' 0x30 [0x11#8, 0x07#8]).transactions = [.read 0x30, .read 0xF4] := by decide
  rw [ht] at h
  simp only [List.mem_cons, Transaction.read.injEq, List.not_mem_nil, or_false] at h
  rcases h with h | h <;> subst h <;> decide

/-- One state for each clause: halted, unregistered opcode, and the longest transaction list. -/
theorem witness_PortsOfAStep :
    (∃ t, step (at' 0x33 [0xC0#8]) = .next t ∧ t.run = .halted) ∧ lookup 0xC0#8 = none ∧
    (at' 0x33 [0xC0#8]).transactions = [.read 0x33] ∧
    (at' 0 [0x45#8, 0x02#8]).transactions = [.read 0, .read 1, .write 0xF3 0] ∧
    (at' 0 [0x82#8, 0x02#8]).transactions = [.read 0, .read 1, .read 2] :=
  ⟨⟨_, rfl, by decide⟩, by decide, by decide, by decide, by decide⟩

/-- V-RT-1 -/
theorem witness_PushThenPop :
    (at' 0 [0x45#8, 0x04#8, 0x46#8, 0x04#8]).mem.wf ∧ (at' 0 [0x45#8, 0x04#8, 0x46#8, 0x04#8]).run = .running ∧
    (at' 0 [0x45#8, 0x04#8, 0x46#8, 0x04#8]).mem.read 0 = Mnemonic.push.byte ∧
    (at' 0 [0x45#8, 0x04#8, 0x46#8, 0x04#8]).mem.read 1 = 0x04#8 ∧
    (at' 0 [0x45#8, 0x04#8, 0x46#8, 0x04#8]).mem.read 2 = Mnemonic.pop.byte ∧
    (at' 0 [0x45#8, 0x04#8, 0x46#8, 0x04#8]).mem.read 3 = 0x04#8 ∧
    normalise 2 ≠ (0xF4#8 - 1#8).toNat ∧ normalise 3 ≠ (0xF4#8 - 1#8).toNat := by decide

theorem witness_CallThenRet :
    busy.mem.wf ∧ ∃ t v, exec (.call 0x01#8) busy = .next t ∧ exec .ret t = .next v ∧ v.pc = 0x01#8 ∧ v.sp = 0xF3#8 :=
  ⟨by decide, _, _, rfl, rfl, by decide, by decide⟩

/-- The push lands on the Cell the next cycle fetches from. -/
theorem witness_PushedCellIsFetched :
    (sp' (with' (at' 0x00 [0x45#8, 0x02#8]) 2 0x01#8) 0x03#8).mem.wf ∧
    (sp' (with' (at' 0x00 [0x45#8, 0x02#8]) 2 0x01#8) 0x03#8).latchOpcode.fetchInstr = some (.push 0x02#8) ∧
    ∃ t u, step (sp' (with' (at' 0x00 [0x45#8, 0x02#8]) 2 0x01#8) 0x03#8) = .next t ∧ t.pc = t.sp ∧
      step t = .next u ∧ u.run = .halted :=
  ⟨by decide, by decide, _, _, rfl, by decide, rfl, by decide⟩

theorem witness_NopMemoryRunsForever :
    State.reset.run = .running ∧ ∀ addr : Int, State.reset.mem.read addr = Mnemonic.nop.byte :=
  ⟨rfl, fun _ => rfl⟩

theorem witness_PlacedWordRuns : busy.mem.wf ∧ decodeTableWord 16 0x0250 = some (.call 0x02#8) := by decide

end Sys2Proof.Tests
end

namespace Sys2Proof.Machine

/-! ## What each instruction makes of a state

Every instruction completes from every state (40_cycle.md R87), so its meaning is a function of the state. `nextState` is that
function, `exec_eq` ties it to `exec`; what an instruction changes and leaves unchanged is said about it once, field by field. -/

/-- The state in which an instruction ends, by the rule of its family file. -/
def nextState (i : Instr) (s : State) : State :=
  match i with
  | .nop => { s with pc := s.pc + 1#8 }
  | .hlt => { s with pc := s.pc + 1#8, run := .halted }
  | .ldi a b => State.setReg { s with pc := s.pc + 3#8 } (rsel a) b
  | .add a b => State.setReg { s with pc := s.pc + 3#8 } (rsel a) (s.regOperand a + s.regOperand b)
  | .mul a b => State.setReg { s with pc := s.pc + 3#8 } (rsel a) (s.regOperand a * s.regOperand b)
  | .cmp a b =>
    { s with
      pc := s.pc + 3#8
      fl := if s.regOperand a = s.regOperand b then s.fl ||| 0x01#8 else s.fl &&& 0xFE#8 }
  | .prn a => { s with pc := s.pc + 2#8, out := s.out ++ [s.regOperand a] }
  | .push a => { s.push (s.regOperand a).toNat with pc := s.pc + 2#8 }
  | .pop a => State.setReg { s with pc := s.pc + 2#8, sp := s.sp + 1#8 } (rsel a) s.top
  | .call a => { s.push s.returnAddress with pc := s.regOperand a }
  | .ret => { s with pc := s.top, sp := s.sp + 1#8 }

theorem exec_eq (i : Instr) (s : State) : exec i s = .next (nextState i s) := by
  cases i with
  | nop => exact execNop_eq s
  | hlt => exact execHlt_eq s
  | ldi a b => exact execLdi_eq s a b
  | add a b => exact execAdd_eq s a b
  | mul a b => exact execMul_eq s a b
  | cmp a b => exact execCmp_eq s a b
  | prn a => exact execPrn_eq s a
  | push a => exact execPush_eq s a
  | pop a => exact execPop_eq s a
  | call a => exact execCall_eq s a
  | ret => exact execRet_eq s

theorem exec_eq_next_iff {i : Instr} {s t : State} : exec i s = .next t ↔ t = nextState i s := by
  simp only [exec_eq, Host.Outcome.next.injEq, eq_comm]

/-! ### The fields of the next state -/

@[simp] theorem nextState_ir (i : Instr) (s : State) : (nextState i s).ir = s.ir := by
  cases i <;> rfl

@[simp] theorem nextState_fault (i : Instr) (s : State) : (nextState i s).fault = s.fault := by
  cases i <;> rfl

/-- RUN is written by HLT alone (10_state.md R20, 41_nop_hlt.md R101). -/
theorem nextState_run (i : Instr) (s : State) : (nextState i s).run = if i = .hlt then .halted else s.run := by
  cases i <;> rfl

/-- FL is written by CMP alone, which sets or clears E (10_state.md R16, 43_alu.md R114). -/
theorem nextState_fl_cases (i : Instr) (s : State) :
    (nextState i s).fl = s.fl ∨
    (∃ a b, i = .cmp a b) ∧ ((nextState i s).fl = s.fl ||| 0x01#8 ∨ (nextState i s).fl = s.fl &&& 0xFE#8) := by
  cases i with
  | cmp a b => exact .inr ⟨⟨a, b, rfl⟩, ite_eq_or_eq _ _ _⟩
  | _ => exact .inl rfl

/-- The address a push stores at, as the memory port is given it (10_state.md R19, 20_memory.md R47). -/
theorem toNat_sub_one_cast (sp : Cell) : ((sp - 1#8).toNat : Int) = ((sp.toNat : Int) - 1) % 256 := by
  bv_omega

/-- An instruction changes memory by its data access alone (20_memory.md R47, R54). -/
theorem nextState_mem (i : Instr) (s : State) : (nextState i s).mem = replay (dataAccess i s) s.mem := by
  cases i with
  | push a | call a => exact congrArg (s.mem.write · _) (toNat_sub_one_cast s.sp)
  | _ => rfl

theorem nextState_mem_wf (i : Instr) {s : State} (h : s.mem.wf) : (nextState i s).mem.wf :=
  nextState_mem i s ▸ replay_wf h _

/-! ### OUT and FL are not read -/

/-- With any other OUT an instruction emits the same Cells and ends the same (10_state.md R22). -/
theorem nextState_withOut (i : Instr) (s : State) (o : List Cell) :
    nextState i { s with out := o } = { nextState i s with out := o ++ emitted i s } := by
  cases i with
  | prn a => rfl
  | _ => rw [emitted, List.append_nil]; rfl

theorem nextState_out (i : Instr) (s : State) : (nextState i s).out = s.out ++ emitted i s :=
  congrArg State.out (nextState_withOut i s s.out)

/-- With any other FL an instruction ends the same but for FL (10_state.md R16). -/
theorem nextState_withFl (i : Instr) (s : State) (f : Cell) :
    nextState i { s with fl := f } = { nextState i s with fl := (nextState i { s with fl := f }).fl } := by
  cases i <;> rfl

/-! ### Registers -/

theorem State.getReg_setReg_ne (s : State) {q r : Reg} (h : r ≠ q) (v : Cell) :
    (s.setReg q v).getReg r = s.getReg r := by
  rw [State.getReg_setReg, if_neg h.symm]

/-- A write to a register an instruction does not read leaves its operands as they are. -/
theorem State.regOperand_setReg (s : State) {rs : List Reg} {r : Reg} {a : Cell} (ha : rsel a ∈ rs) (hr : r ∉ rs) (v : Cell) :
    (s.setReg r v).regOperand a = s.regOperand a :=
  s.getReg_setReg_ne (ne_of_mem_of_not_mem ha hr) v

/-- Of two writes to one register the later remains, writes to different registers commute.
The condition is the membership in the write set of an instruction with the one destination `q`. -/
theorem State.setReg_setReg (s : State) (r q : Reg) (v x : Cell) :
    (s.setReg r v).setReg q x = if r ∈ [q] then s.setReg q x else (s.setReg q x).setReg r v := by
  by_cases h : r = q
  · subst h
    simp [State.setReg]
  · have hv : r.val ≠ q.val := Fin.val_ne_of_ne h
    simp [State.setReg, h, Vector.set_comm _ _ hv]

/-- An instruction writes no register outside its write set (10_state.md R11). -/
theorem nextState_getReg {i : Instr} {r : Reg} (h : r ∉ regWrites i) (s : State) :
    (nextState i s).getReg r = s.getReg r := by
  cases i with
  | ldi a b | add a b | mul a b | pop a => exact State.getReg_setReg_ne _ (mt List.mem_singleton.mpr h) _
  | _ => rfl

/-- A register outside the read set has no effect but on itself (10_state.md R11). -/
theorem nextState_setReg {i : Instr} {r : Reg} (h : r ∉ regReads i) (s : State) (v : Cell) :
    nextState i (s.setReg r v) = if r ∈ regWrites i then nextState i s else (nextState i s).setReg r v := by
  cases i with
  | nop | hlt | ret => rfl
  | ldi a b => exact State.setReg_setReg { s with pc := s.pc + 3#8 } r (rsel a) v b
  | pop a => exact State.setReg_setReg { s with pc := s.pc + 2#8, sp := s.sp + 1#8 } r (rsel a) v s.top
  | prn a | push a | call a =>
    have ha := s.regOperand_setReg List.mem_cons_self h v
    simp only [nextState, ha]
    rfl
  | cmp a b =>
    have ha := s.regOperand_setReg List.mem_cons_self h v
    have hb := s.regOperand_setReg (List.mem_cons_of_mem _ List.mem_cons_self) h v
    simp only [nextState, ha, hb]
    rfl
  | add a b | mul a b =>
    have ha := s.regOperand_setReg List.mem_cons_self h v
    have hb := s.regOperand_setReg (List.mem_cons_of_mem _ List.mem_cons_self) h v
    simp only [nextState, ha, hb]
    exact State.setReg_setReg { s with pc := s.pc + 3#8 } r (rsel a) v _

/-! ### SP and PC -/

theorem toNat_sub_one (sp : Cell) : (sp - 1#8).toNat = (sp.toNat + 255) % 256 := by
  bv_omega

theorem toNat_add_one (sp : Cell) : (sp + 1#8).toNat = (sp.toNat + 1) % 256 := by
  bv_omega

/-- No instruction but the four stack instructions writes SP (10_state.md R18). -/
theorem nextState_sp {i : Instr} (h : ∀ a, i ≠ .push a ∧ i ≠ .call a ∧ i ≠ .pop a) (hret : i ≠ .ret) (s : State) :
    (nextState i s).sp = s.sp := by
  cases i with
  | push a => exact absurd rfl (h a).1
  | call a => exact absurd rfl (h a).2.1
  | pop a => exact absurd rfl (h a).2.2
  | ret => exact absurd rfl hret
  | _ => rfl

/-- Only CALL and RET have the PC-control bit set (30_encoding.md R67). -/
theorem setsPcItself_iff (i : Instr) :
    setsPcItself i.mnemonic.byte = true ↔ (∃ a, i = .call a) ∨ i = .ret := by
  cases i <;> simp [Instr.mnemonic, Mnemonic.byte, setsPcItself]

/-- The auto-advance of PC (10_state.md R14(a)). -/
theorem nextState_pc {i : Instr} (h : setsPcItself i.mnemonic.byte = false) (s : State) :
    (nextState i s).pc = s.pc + BitVec.ofNat 8 (operandCount i.mnemonic.byte + 1) := by
  cases i with
  | call a => simp [(setsPcItself_iff _).mpr (.inl ⟨a, rfl⟩)] at h
  | ret => simp [(setsPcItself_iff _).mpr (.inr rfl)] at h
  | _ => rw [operandCount_byte]; rfl

/-! ## What a step request makes of a state -/

theorem byte_injective : Function.Injective Mnemonic.byte := fun m n h =>
  Option.some.inj (by rw [← lookup_byte m, h, lookup_byte])

theorem mnemonic_byte_eq_hlt_iff (i : Instr) : i.mnemonic.byte = Mnemonic.hlt.byte ↔ i = .hlt := by
  rw [byte_injective.eq_iff]
  cases i <;> simp [Instr.mnemonic]

theorem step_fetched {s : State} (hr : s.run = .running) {i : Instr} (hi : s.latchOpcode.fetchInstr = some i) :
    step s = .next (nextState i s.latchOpcode) :=
  (step_exec hr hi).trans (exec_eq i _)

/-- Inversion of a step request: ignored, the exception taken, or an instruction run (40_cycle.md R90). -/
theorem step_next_cases {s t : State} (h : step s = .next t) :
    (s.run = .halted ∧ t = s) ∨
    (s.run = .running ∧ lookup (s.mem.read s.pc.toNat) = none ∧
      t = s.latchOpcode.raiseInvalidOpcode s.pc (s.mem.read s.pc.toNat)) ∨
    (s.run = .running ∧ ∃ i, s.latchOpcode.fetchInstr = some i ∧ s.mem.read s.pc.toNat = i.mnemonic.byte ∧
      t = nextState i s.latchOpcode) := by
  obtain ⟨hr, hs⟩ | ⟨hr, hl, hs⟩ | ⟨hr, i, hi, hb, hs⟩ := step_cases s
  · exact .inl ⟨hr, Host.Outcome.next.inj (h.symm.trans hs)⟩
  · exact .inr (.inl ⟨hr, hl, Host.Outcome.next.inj (h.symm.trans hs)⟩)
  · exact .inr (.inr ⟨hr, i, hi, hb, exec_eq_next_iff.mp (hs.symm.trans h)⟩)

/-! ## The invariant -/

/-- Setting or clearing E keeps FL at 0x00 or 0x01 (10_state.md R16). -/
theorem nextState_keeps_fl (i : Instr) {s : State} (h : s.fl = 0x00#8 ∨ s.fl = 0x01#8) :
    (nextState i s).fl = 0x00#8 ∨ (nextState i s).fl = 0x01#8 := by
  obtain hf | ⟨-, hf | hf⟩ := nextState_fl_cases i s
  · rwa [hf]
  all_goals
    rw [hf]
    rcases h with h | h <;> rw [h] <;> decide

/-- A running machine that meets the invariant has no fault record (10_state.md R21). -/
theorem State.Inv.fault_none {s : State} (hs : s.Inv) (hr : s.run = .running) : s.fault = none := by
  cases hf : s.fault with
  | none => rfl
  | some f =>
    obtain ⟨hh, -⟩ := hs.fault f hf
    rw [hr] at hh
    cases hh

theorem raiseInvalidOpcode_inv {s : State} (hs : s.Inv) (hl : lookup (s.mem.read s.pc.toNat) = none) :
    (s.latchOpcode.raiseInvalidOpcode s.pc (s.mem.read s.pc.toNat)).Inv where
  mem := hs.mem
  fl := hs.fl
  fault := by rintro _ ⟨⟩; exact ⟨rfl, rfl, rfl, hl⟩
  halt := by rintro ⟨-, ⟨⟩⟩

theorem nextState_inv {s : State} (hs : s.Inv) (hr : s.run = .running) {i : Instr}
    (hb : s.mem.read s.pc.toNat = i.mnemonic.byte) : (nextState i s.latchOpcode).Inv where
  mem := nextState_mem_wf i hs.mem
  fl := nextState_keeps_fl i hs.fl
  fault f hf := by
    rw [nextState_fault, State.latchOpcode_fault, hs.fault_none hr] at hf
    cases hf
  halt := by
    rintro ⟨hh, -⟩
    have hi : i = .hlt := by
      by_contra hne
      rw [nextState_run, if_neg hne, State.latchOpcode_run, hr] at hh
      cases hh
    rw [nextState_ir, State.latchOpcode_ir, hb, hi]
    rfl

/-- Settles O49, by the three things a step request can do. -/
theorem stepKeepsInvariant : Obligations.StepKeepsInvariant := by
  intro s t hs h
  obtain ⟨-, rfl⟩ | ⟨-, hl, rfl⟩ | ⟨hr, i, -, hb, rfl⟩ := step_next_cases h
  · exact hs
  · exact raiseInvalidOpcode_inv hs hl
  · exact nextState_inv hs hr hb

/-- Settles O48: reset leaves no memory Cell listed, FL zero, and the machine Running without a fault record. -/
theorem resetMeetsInvariant : Obligations.ResetMeetsInvariant where
  mem := State.reset_mem_wf
  fl := .inl rfl
  fault := by rintro f ⟨⟩
  halt := by rintro ⟨⟨⟩, -⟩

/-- Settles O47, field by field. -/
theorem resetState : Obligations.ResetState :=
  ⟨fun r => Vector.getElem_replicate r.isLt, rfl, rfl, rfl, rfl, rfl, rfl, rfl, rfl⟩

/-! ## Registers, SP, PC -/

/-- Settles O31, from the read and write sets of `nextState`; fetch and lookup read PC and memory alone. -/
theorem registerReadsAndWrites : Obligations.RegisterReadsAndWrites := by
  refine ⟨fun i s t r h hr => ?_, fun i s t r v h hr => ?_, fun s r v => rfl⟩
  · rw [exec_eq_next_iff.mp h, nextState_getReg hr]
  · rw [exec_eq_next_iff.mp h, exec_eq, nextState_setReg hr]

/-- LDI, ADD and MUL advance PC and write one register. -/
theorem nextState_registerInstruction {i : Instr} {a b : Cell} (h : i = .ldi a b ∨ i = .add a b ∨ i = .mul a b) (s : State) :
    ∃ v, nextState i s = State.setReg { s with pc := s.pc + 3#8 } (rsel a) v := by
  rcases h with rfl | rfl | rfl <;> exact ⟨_, rfl⟩

/-- Settles O27: what is left is the frame of one register write. -/
theorem registerInstructionsFrame : Obligations.RegisterInstructionsFrame := by
  intro a b i s t hi h
  obtain ⟨v, hv⟩ := nextState_registerInstruction hi s
  rw [exec_eq_next_iff.mp h, hv]
  exact ⟨fun r hr => State.getReg_setReg_ne _ hr v, rfl, rfl, rfl, ⟨rfl, rfl⟩, rfl, fun _ => rfl⟩

/-- Settles O33: the stack instructions move SP by one, mod 256, and `nextState_sp` covers the rest. -/
theorem stackPointerWriters : Obligations.StackPointerWriters := by
  intro i s t h
  rw [exec_eq_next_iff.mp h]
  refine ⟨?_, ?_, fun hi hret => nextState_sp hi hret s⟩
  · rintro a (rfl | rfl) <;> exact toNat_sub_one s.sp
  · rintro a (rfl | rfl) <;> exact toNat_add_one s.sp

/-- Settles O34, by the PC-control bit: the auto-advance, or CALL and RET. -/
theorem pcAdvance : Obligations.PcAdvance := by
  intro i s t h
  rw [exec_eq_next_iff.mp h]
  refine ⟨fun hp => ?_, fun hp => ?_⟩
  · rw [nextState_pc hp]
    simp [Nat.add_assoc]
  · obtain ⟨a, rfl⟩ | rfl := (setsPcItself_iff i).mp hp
    · exact .inl ⟨a, rfl, rfl⟩
    · exact .inr ⟨rfl, rfl⟩

/-! ## OUT and FL -/

/-- Settles O36: the Cells appended are those the instruction emits. -/
theorem outputNeverRead : Obligations.OutputNeverRead := by
  intro s t o h
  obtain ⟨hr, rfl⟩ | ⟨hr, hl, rfl⟩ | ⟨hr, i, hi, -, rfl⟩ := step_next_cases h
  · exact ⟨[], (List.append_nil _).symm, (List.append_nil o).symm ▸ step_halted hr⟩
  · exact ⟨[], (List.append_nil _).symm, (List.append_nil o).symm ▸ step_invalid (s := { s with out := o }) hr hl⟩
  · refine ⟨emitted i s.latchOpcode, nextState_out i _, ?_⟩
    rw [← nextState_withOut]
    exact step_fetched (s := { s with out := o }) hr hi

/-- Settles O38: the other FL goes through a step untouched, or as the instruction run makes of it. -/
theorem flagsNeverRead : Obligations.FlagsNeverRead := by
  intro s t f h
  obtain ⟨hr, rfl⟩ | ⟨hr, hl, rfl⟩ | ⟨hr, i, hi, -, rfl⟩ := step_next_cases h
  · exact ⟨f, step_halted hr⟩
  · exact ⟨f, step_invalid (s := { s with fl := f }) hr hl⟩
  · refine ⟨(nextState i { s.latchOpcode with fl := f }).fl, ?_⟩
    rw [← nextState_withFl]
    exact step_fetched (s := { s with fl := f }) hr hi

/-- Setting E keeps the other bits of FL. -/
theorem getLsbD_or_flagE (fl : Cell) {k : Nat} (hk : 1 ≤ k) : (fl ||| 0x01#8).getLsbD k = fl.getLsbD k := by
  have : k ≠ 0 := by omega
  simp [this]

/-- Clearing E keeps the other bits of FL. -/
theorem getLsbD_and_not_flagE (fl : Cell) {k : Nat} (hk : 1 ≤ k) : (fl &&& 0xFE#8).getLsbD k = fl.getLsbD k := by
  have hk : k ≠ 0 := by omega
  have h : 0xFE#8 = ~~~1#8 := by decide
  have hlt : fl.getLsbD k = true → k < 8 := BitVec.lt_of_getLsbD
  rw [h, BitVec.getLsbD_and, BitVec.getLsbD_not, BitVec.getLsbD_one]
  simpa [hk] using hlt

/-- Settles O37: FL is as before, or it is a CMP's with E set or cleared. -/
theorem flagsOnlyByCmp : Obligations.FlagsOnlyByCmp := by
  intro i s t h
  rw [exec_eq_next_iff.mp h]
  obtain hf | ⟨⟨a, b, hi⟩, hf⟩ := nextState_fl_cases i s
  · exact ⟨fun k _ => by rw [hf], fun _ => hf⟩
  · refine ⟨fun k hk => ?_, fun hne => absurd hi (hne a b)⟩
    rcases hf with hf | hf <;> rw [hf]
    · exact getLsbD_or_flagE s.fl hk
    · exact getLsbD_and_not_flagE s.fl hk

/-! ## RUN -/

/-- Settles O39: a cycle halts by the exception or by HLT, whose opcode byte is its own. -/
theorem whatHalts : Obligations.WhatHalts := by
  refine ⟨rfl, fun s t hrun h => ?_, fun s t hrun h => ?_⟩
  · obtain ⟨hr, -⟩ | ⟨-, hl, rfl⟩ | ⟨-, i, -, hb, rfl⟩ := step_next_cases h
    · cases hrun.symm.trans hr
    · exact iff_of_true rfl (.inr hl)
    · rw [nextState_run, State.latchOpcode_run, hrun, hb, lookup_byte, mnemonic_byte_eq_hlt_iff]
      simp
  · rw [step_halted hrun] at h
    exact Host.Outcome.next.inj h ▸ hrun

/-! ## The ports -/

theorem transactions_halted {s : State} (h : s.run = .halted) : s.transactions = [] := by
  simp [State.transactions, h]

theorem reports_halted {s : State} (h : s.run = .halted) : s.reports = [] := by
  simp [State.reports, h]

theorem transactions_invalid {s : State} (hr : s.run = .running) (hl : lookup (s.mem.read s.pc.toNat) = none) :
    s.transactions = [.read s.pc.toNat] := by
  have hi : s.latchOpcode.fetchInstr = none := fetchInstr_none_iff.mpr hl
  simp [State.transactions, hr, hi]

theorem reports_invalid {s : State} (hr : s.run = .running) (hl : lookup (s.mem.read s.pc.toNat) = none) :
    s.reports = [.invalidOpcode s.pc (s.mem.read s.pc.toNat)] := by
  have hi : s.latchOpcode.fetchInstr = none := fetchInstr_none_iff.mpr hl
  simp [State.reports, hr, hi]

section Fetched

variable {s : State} {i : Instr} (hr : s.run = .running) (hi : s.latchOpcode.fetchInstr = some i)
include hr hi

theorem transactions_fetched :
    s.transactions = .read s.pc.toNat :: (operandReads s i.operandBytes.length ++ dataAccess i s) := by
  rw [← operandCount_byte, ← fetchInstr_mnemonic hi]
  simp [State.transactions, hr, hi]

theorem reports_fetched : s.reports = [] := by
  simp [State.reports, hr, hi]

end Fetched

/-- A transaction that writes. -/
def Transaction.isWrite : Transaction → Bool
  | .write _ _ => true
  | .read _ => false

@[simp] theorem operandReads_length (s : State) (n : Nat) : (operandReads s n).length = n := by
  simp [operandReads]

theorem operandReads_filter_isWrite (s : State) (n : Nat) : (operandReads s n).filter Transaction.isWrite = [] := by
  simp [operandReads, Transaction.isWrite]

theorem dataAccess_length_le (i : Instr) (s : State) : (dataAccess i s).length ≤ 1 := by
  cases i <;> simp [dataAccess]

theorem operandBytes_length_le (i : Instr) : i.operandBytes.length ≤ 2 := by
  cases i <;> simp [Instr.operandBytes]

/-- Settles O51, by the three things a step request can do. -/
theorem portsOfAStep : Obligations.PortsOfAStep := by
  intro s t h
  obtain ⟨hr, rfl⟩ | ⟨hr, hl, rfl⟩ | ⟨hr, i, hi, hb, rfl⟩ := step_next_cases h
  · rw [transactions_halted hr, reports_halted hr]
    exact ⟨by simp, by simp, fun _ => rfl, fun hrun => (nomatch hr.symm.trans hrun), rfl, by simp⟩
  · rw [transactions_invalid hr hl, reports_invalid hr hl]
    exact ⟨by simp, by simp, fun hh => (nomatch hr.symm.trans hh), fun _ _ => rfl, rfl, by simp⟩
  · rw [transactions_fetched hr hi, reports_fetched hr hi]
    have hops := operandBytes_length_le i
    have hacc := dataAccess_length_le i s
    refine ⟨?_, ?_, fun hh => (nomatch hr.symm.trans hh), fun _ hl => ?_, nextState_fault i _, by simp⟩
    · rw [List.length_cons, List.length_append, operandReads_length]
      omega
    · show (List.filter Transaction.isWrite _).length ≤ 1
      rw [List.filter_cons_of_neg Bool.false_ne_true, List.filter_append, operandReads_filter_isWrite]
      exact (List.length_filter_le _ _).trans hacc
    · rw [hb, lookup_byte] at hl
      cases hl

end Sys2Proof.Machine

namespace Sys2Proof.Machine

/-! ## Memory is used only through the port -/

/-- Reads leave memory as it is (20_memory.md R41). -/
theorem replay_operandReads_append (s : State) (n : Nat) (ts : List Transaction) (m : Memory) :
    replay (operandReads s n ++ ts) m = replay ts m := by
  unfold operandReads
  induction List.range n with
  | nil => rfl
  | cons k ks ih => exact ih

/-- The data access of an instruction is a function of the registers, PC and SP (20_memory.md R47). -/
theorem dataAccess_withIrMem (i : Instr) (s : State) (op : Cell) (m : Memory) :
    dataAccess i { s with ir := op, mem := m } = dataAccess i s := by
  cases i <;> rfl

theorem dataAccess_latchOpcode (i : Instr) (s : State) : dataAccess i s.latchOpcode = dataAccess i s :=
  dataAccess_withIrMem i s _ s.mem

/-- A step's writes are those of its instruction's data access (20_memory.md R47). -/
theorem replay_transactions_fetched {s : State} (hr : s.run = .running) {i : Instr}
    (hi : s.latchOpcode.fetchInstr = some i) (m : Memory) : replay s.transactions m = replay (dataAccess i s) m := by
  rw [transactions_fetched hr hi]
  exact replay_operandReads_append s _ _ m

/-- The memory `m` gives what the memory of `s` gives, to each read of `ts`. -/
def ReadsAgree (s : State) (m : Memory) (ts : List Transaction) : Prop :=
  ∀ addr : Int, .read addr ∈ ts → m.read addr = s.mem.read addr

/-- The reads of a step that runs an instruction: the opcode, its operands, its data access (20_memory.md R47). -/
theorem ReadsAgree.fetched {s : State} {m : Memory} (h : ReadsAgree s m s.transactions) (hr : s.run = .running) {i : Instr}
    (hi : s.latchOpcode.fetchInstr = some i) :
    m.read s.pc.toNat = s.mem.read s.pc.toNat ∧
    ReadsAgree s m (operandReads s i.operandBytes.length) ∧ ReadsAgree s m (dataAccess i s) := by
  rw [transactions_fetched hr hi] at h
  exact ⟨h _ List.mem_cons_self,
    fun addr ha => h addr (List.mem_cons_of_mem _ (List.mem_append_left _ ha)),
    fun addr ha => h addr (List.mem_cons_of_mem _ (List.mem_append_right _ ha))⟩

/-- An instruction depends on memory through its data access alone, and writes to another memory what it writes to its own
(20_memory.md R47, R54). -/
theorem nextState_withMem {i : Instr} {s : State} {m : Memory} (h : ReadsAgree s m (dataAccess i s)) :
    nextState i { s with mem := m } = { nextState i s with mem := replay (dataAccess i s) m } := by
  have hmem : (nextState i { s with mem := m }).mem = replay (dataAccess i s) m := by
    rw [nextState_mem, dataAccess_withIrMem i s s.ir m]
  rw [← hmem]
  cases i with
  | pop a | ret =>
    have htop : State.top { s with mem := m } = s.top := h _ List.mem_cons_self
    simp only [nextState, htop, State.setReg]
  | _ => rfl

/-- The opcode latch reads the Cell at PC alone (40_cycle.md R84). -/
theorem latchOpcode_withMem {s : State} {m : Memory} (h : m.read s.pc.toNat = s.mem.read s.pc.toNat) :
    State.latchOpcode { s with mem := m } = { s.latchOpcode with mem := m } :=
  congrArg (fun op => { s with mem := m, ir := op }) h

/-- Operand fetch reads the operand Cells alone (40_cycle.md R86). -/
theorem operandCells_withMem {s : State} {m : Memory} {n : Nat} (h : ReadsAgree s m (operandReads s n)) :
    State.operandCells { s with mem := m } n = s.operandCells n :=
  List.map_congr_left fun _ hk => h _ (List.mem_map_of_mem hk)

/-- From a latched IR, the instruction depends on memory through its operand reads alone (40_cycle.md R86; log 13). -/
theorem fetchInstr_withMem {s : State} {m : Memory} (h : ReadsAgree s m (operandReads s (operandCount s.ir))) :
    State.fetchInstr { s with mem := m } = s.fetchInstr := by
  simp only [State.fetchInstr, operandCells_withMem h]

/-- Settles O50, by the three things a step request can do: it reads nothing, or the opcode alone, or the opcode, the operands
and what the instruction's data access reads. -/
theorem memoryOnlyThroughThePort : Obligations.MemoryOnlyThroughThePort := by
  intro s t m h (hm : ReadsAgree s m s.transactions)
  obtain ⟨hr, rfl⟩ | ⟨hr, hl, rfl⟩ | ⟨hr, i, hi, -, rfl⟩ := step_next_cases h
  · rw [transactions_halted hr]
    exact step_halted hr
  · rw [transactions_invalid hr hl] at hm ⊢
    have hpc : m.read s.pc.toNat = s.mem.read s.pc.toNat := hm _ List.mem_cons_self
    have hs := step_invalid (s := { s with mem := m }) hr (hpc ▸ hl)
    rwa [latchOpcode_withMem hpc, hpc] at hs
  · obtain ⟨hpc, hops, hacc⟩ := hm.fetched hr hi
    have hlatch := latchOpcode_withMem hpc
    rw [← operandCount_byte, ← fetchInstr_mnemonic hi] at hops
    rw [← dataAccess_latchOpcode] at hacc
    have hi' : State.fetchInstr (State.latchOpcode { s with mem := m }) = some i := by
      rw [hlatch, ← hi]
      exact fetchInstr_withMem hops
    calc step { s with mem := m }
      _ = .next (nextState i { s.latchOpcode with mem := m }) := hlatch ▸ step_fetched (s := { s with mem := m }) hr hi'
      _ = .next { nextState i s.latchOpcode with mem := replay s.transactions m } := by
        rw [nextState_withMem hacc, dataAccess_latchOpcode, replay_transactions_fetched hr hi]

/-! ## Reads after writes -/

/-- For the addresses the core presents, normalisation is the AND with C - 1 (20_memory.md R40). -/
theorem normalise_natCast_and (n : Nat) : normalise n = n &&& (Config.capacity - 1) :=
  (normalise_natCast n).trans (Nat.and_two_pow_sub_one_eq_mod n 8).symm

/-- `Memory.read_write` by the Cells the addresses name. -/
theorem Memory.read_write_normalise {m : Memory} (h : m.wf) (a b : Int) (v : Nat) :
    (m.write a v).read b = if normalise b = normalise a then BitVec.ofNat 8 (v &&& 255) else m.read b := by
  simp only [Memory.read_write h, normalise_eq_iff]

/-- Settles O9: a read after a write, the addresses being natural numbers. -/
theorem memoryWriteContract : Obligations.MemoryWriteContract := by
  intro m addr v b h
  rw [← normalise_natCast_and, ← normalise_natCast_and]
  split
  case isTrue hab => rw [Memory.read_write_normalise h, if_pos hab]
  case isFalse hab => rw [Memory.read_write_normalise h, if_neg hab]

/-- Settles O10: addresses C apart have one remainder. -/
theorem addressesWrap : Obligations.AddressesWrap := by
  have hwrap (addr : Int) : normalise (addr + Config.capacity) = normalise addr :=
    (normalise_eq_iff _ _).mpr (Int.add_emod_right addr Config.capacity)
  refine ⟨normalise_natCast_and, fun addr => ⟨normalise_lt addr, hwrap addr⟩, fun m v h => ?_⟩
  rw [Memory.read_write_normalise h, if_pos]
  exact (hwrap 0).symm

/-! ## Canonical memories are determined by what they read -/

/-- A listed Cell reads as listed. -/
theorem Memory.cellAt_of_mem {m : Memory} (h : m.Pairwise fun p q => p.1 < q.1) {p : Host.Cell} (hp : p ∈ m) :
    m.cellAt p.1 = p.2 := by
  induction m with
  | nil => cases hp
  | cons q m ih =>
    obtain ⟨hq, hm⟩ := List.pairwise_cons.mp h
    rw [Memory.cellAt_cons]
    rcases List.mem_cons.mp hp with rfl | hp
    · exact if_pos rfl
    · rw [if_neg (hq p hp).ne, ih hm hp]

/-- A Cell that does not read as an unlisted one is listed. -/
theorem Memory.mem_of_cellAt {m : Memory} {a : Nat} (h : m.cellAt a ≠ Config.unlistedCell) : (a, m.cellAt a) ∈ m := by
  induction m with
  | nil => exact absurd rfl h
  | cons q m ih =>
    rw [Memory.cellAt_cons] at h ⊢
    split at h
    case isTrue hq => rw [if_pos hq, ← hq]; exact List.mem_cons_self
    case isFalse hq => rw [if_neg hq]; exact List.mem_cons_of_mem q (ih h)

/-- What a canonical memory lists: the Cells that do not read as unlisted ones, at their addresses below C. -/
theorem Memory.mem_iff_read {m : Memory} (h : m.wf) (p : Host.Cell) :
    p ∈ m ↔ p.1 < Config.capacity ∧ p.2 ≠ Config.unlistedCell ∧ m.read p.1 = p.2 := by
  have hread (hlt : p.1 < Config.capacity) : m.read p.1 = m.cellAt p.1 := by
    rw [Memory.read, normalise_natCast, Nat.mod_eq_of_lt hlt]
  constructor
  · intro hp
    obtain ⟨hlt, hne⟩ := h.2 p hp
    exact ⟨hlt, hne, (hread hlt).trans (Memory.cellAt_of_mem h.1 hp)⟩
  · rintro ⟨hlt, hne, hp⟩
    rw [hread hlt] at hp
    have hmem : (p.1, m.cellAt p.1) ∈ m := Memory.mem_of_cellAt (hp ▸ hne)
    rwa [hp] at hmem

/-- Settles O11: the two memories list the same Cells, and a rising list is determined by its members. -/
theorem equalReadsEqualMemories : Obligations.EqualReadsEqualMemories := by
  intro m m' h h' hread
  have : Std.Irrefl fun p q : Host.Cell => p.1 < q.1 := ⟨fun p => lt_irrefl p.1⟩
  refine h.1.eq_of_mem_iff h'.1 fun p => ?_
  rw [Memory.mem_iff_read h, Memory.mem_iff_read h', hread]

/-- Settles O12: both sides read alike at every address. -/
theorem writesCommuteOrOverwrite : Obligations.WritesCommuteOrOverwrite := by
  intro m a b v w h
  have ha : (m.write a v).wf := Memory.write_wf h a v
  have hb : (m.write b w).wf := Memory.write_wf h b w
  refine ⟨fun hab => ?_, fun hab => ?_⟩
  · refine equalReadsEqualMemories _ _ (Memory.write_wf ha b w) (Memory.write_wf hb a v) fun addr => ?_
    simp only [Memory.read_write_normalise ha, Memory.read_write_normalise hb, Memory.read_write_normalise h]
    by_cases hx : normalise addr = normalise b
    · have hxa : normalise addr ≠ normalise a := hx ▸ hab.symm
      simp only [if_pos hx, if_neg hxa]
    · simp only [if_neg hx]
  · refine equalReadsEqualMemories _ _ (Memory.write_wf ha b w) hb fun addr => ?_
    simp only [Memory.read_write_normalise ha, Memory.read_write_normalise h, hab]
    split <;> rfl

/-! ## The stack's accesses to memory -/

/-- PUSH and CALL store one Cell, at the decremented SP (45_stack.md R125). -/
theorem nextState_storing {i : Instr} {a : Cell} (h : i = .push a ∨ i = .call a) (s : State) :
    (nextState i s).sp = s.sp - 1#8 ∧ ∃ v, (nextState i s).mem = s.mem.write (s.sp - 1#8).toNat v := by
  rcases h with rfl | rfl <;> exact ⟨rfl, _, rfl⟩

/-- An instruction other than PUSH and CALL leaves memory as it was (20_memory.md R54). -/
theorem nextState_mem_eq {i : Instr} (h : ∀ a, i ≠ .push a ∧ i ≠ .call a) (s : State) : (nextState i s).mem = s.mem := by
  cases i with
  | push a => exact absurd rfl (h a).1
  | call a => exact absurd rfl (h a).2
  | _ => rfl

/-- An instruction other than POP and RET reads no Cell as data (20_memory.md R54). -/
theorem read_notMem_dataAccess {i : Instr} (hpop : ∀ a, i ≠ .pop a) (hret : i ≠ .ret) (s : State) (addr : Int) :
    .read addr ∉ dataAccess i s := by
  cases i with
  | pop a => exact absurd rfl (hpop a)
  | ret => exact absurd rfl hret
  | _ => simp [dataAccess]

theorem dataAccess_popping {i : Instr} {a : Cell} (h : i = .pop a ∨ i = .ret) (s : State) :
    dataAccess i s = [.read s.sp.toNat] := by
  rcases h with rfl | rfl <;> rfl

/-- Settles O32, from the data accesses of the instructions. -/
theorem dataAccessOnlyByStackInstructions : Obligations.DataAccessOnlyByStackInstructions := by
  refine ⟨fun a s t hm h => ?_, fun i s t hi h => ?_, fun i s t m hpop hret h => ?_, fun a i s t m hi hm h => ?_⟩
  · obtain ⟨i, hi, rfl⟩ : ∃ i, (i = .push a ∨ i = .call a) ∧ t = nextState i s := by
      rcases h with h | h
      · exact ⟨_, .inl rfl, exec_eq_next_iff.mp h⟩
      · exact ⟨_, .inr rfl, exec_eq_next_iff.mp h⟩
    obtain ⟨hsp, v, hmem⟩ := nextState_storing hi s
    intro addr haddr
    rw [hsp] at haddr
    rw [hmem, Memory.read_write_normalise hm, if_neg haddr]
  · rw [exec_eq_next_iff.mp h, nextState_mem_eq hi]
  · have hacc : ReadsAgree s m (dataAccess i s) := fun addr ha => absurd ha (read_notMem_dataAccess hpop hret s addr)
    rw [exec_eq_next_iff.mp h, exec_eq, nextState_withMem hacc]
    exact ⟨_, rfl⟩
  · have hacc : ReadsAgree s m (dataAccess i s) := by
      rw [dataAccess_popping hi]
      intro addr ha
      cases List.mem_singleton.mp ha
      exact hm
    rw [exec_eq_next_iff.mp h, exec_eq, nextState_withMem hacc, dataAccess_popping hi]
    rfl

/-- A cycle leaves in IR the Cell it fetched (40_cycle.md R84). -/
theorem step_ir {s t : State} (hr : s.run = .running) (h : step s = .next t) : t.ir = s.mem.read s.pc.toNat := by
  obtain ⟨hh, -⟩ | ⟨-, -, rfl⟩ | ⟨-, i, -, -, rfl⟩ := step_next_cases h
  · cases hr.symm.trans hh
  · rfl
  · exact nextState_ir i _

/-- Settles O55: the machine runs on after a PUSH, and the Cell fetched next is the one just written. -/
theorem pushedCellIsFetched : Obligations.PushedCellIsFetched := by
  intro a s t u hm hr hi ht hpc hu
  obtain rfl : nextState (.push a) s.latchOpcode = t := Host.Outcome.next.inj ((step_fetched hr hi).symm.trans ht)
  have hrun : (nextState (.push a) s.latchOpcode).run = .running := hr
  rw [step_ir hrun hu, hpc]
  exact (Memory.read_write_same hm _ _).trans (ofNat_toNat_and_255 _)

end Sys2Proof.Machine

namespace Sys2Proof.Machine

/-! ## The decoder inverts the encoder -/

theorem operand1_some {f : Cell → Instr} {bytes rest : List Cell} {i : Instr} (h : operand1 f bytes = some (i, rest)) :
    ∃ a, bytes = a :: rest ∧ i = f a := by
  cases bytes with
  | nil => cases h
  | cons a _ => cases h; exact ⟨a, rfl, rfl⟩

theorem operand2_some {f : Cell → Cell → Instr} {bytes rest : List Cell} {i : Instr}
    (h : operand2 f bytes = some (i, rest)) : ∃ a b, bytes = a :: b :: rest ∧ i = f a b := by
  match bytes with
  | [] | [_] => cases h
  | a :: b :: _ => cases h; exact ⟨a, b, rfl, rfl⟩

/-- A handler builds its own instruction, of just the bytes it takes (30_encoding.md R62). -/
theorem build_some {m : Mnemonic} {bytes rest : List Cell} {i : Instr} (h : m.build bytes = some (i, rest)) :
    i.mnemonic = m ∧ i.operandBytes ++ rest = bytes := by
  cases m with
  | nop | hlt | ret => cases h; exact ⟨rfl, rfl⟩
  | prn | push | pop | call => obtain ⟨a, rfl, rfl⟩ := operand1_some h; exact ⟨rfl, rfl⟩
  | ldi | add | mul | cmp => obtain ⟨a, b, rfl, rfl⟩ := operand2_some h; exact ⟨rfl, rfl⟩

theorem decode_encode_append (i : Instr) (rest : List Cell) : decode (encode i ++ rest) = .instr i rest := by
  rw [encode, List.cons_append, decode_cons (lookup_byte i.mnemonic), build_operandBytes]

/-- What decodes: an opcode byte of the dispatch table and the bytes its handler takes (40_cycle.md R83). -/
theorem decode_instr {op : Cell} {bytes rest : List Cell} {i : Instr} (h : decode (op :: bytes) = .instr i rest) :
    ∃ m, lookup op = some m ∧ m.build bytes = some (i, rest) := by
  cases hl : lookup op with
  | none => rw [decode_invalid hl] at h; cases h
  | some m =>
    rw [decode_cons hl] at h
    cases hb : m.build bytes with
    | none => rw [hb] at h; cases h
    | some ir => rw [hb] at h; cases h; exact ⟨m, rfl, hb⟩

/-- Settles O5: the opcode byte finds the handler, and the handler its operand bytes. -/
theorem decodeOfEncode : Obligations.DecodeOfEncode := decode_encode_append

/-- Settles O6: the handler found is the instruction's, and the bytes it took are the instruction's operand bytes. -/
theorem encodeOfDecode : Obligations.EncodeOfDecode := by
  intro bytes i rest h
  cases bytes with
  | nil => cases h
  | cons op bytes =>
    obtain ⟨m, hl, hb⟩ := decode_instr h
    obtain ⟨rfl, rfl⟩ := build_some hb
    rw [lookup_eq_some hl]
    rfl

theorem assemble_cons (i : Instr) (p : List Instr) : assemble (i :: p) = encode i ++ assemble p := List.flatMap_cons

/-- A program's Cells decode to its first instruction, and what is left are the Cells of the rest (30_encoding.md R63). -/
theorem decode_assemble_cons (i : Instr) (p : List Instr) : decode (assemble (i :: p)) = .instr i (assemble p) := by
  rw [assemble_cons, decode_encode_append]

theorem assemble_cons_ne_nil (i : Instr) (p : List Instr) : assemble (i :: p) ≠ [] := by
  rw [assemble_cons]
  exact List.cons_ne_nil _ _

/-- Settles O7, by induction on the first program: one decoding takes the same instruction off both. -/
theorem assembledProgramsDiffer : Obligations.AssembledProgramsDiffer := by
  intro p
  induction p with
  | nil =>
    intro q h
    cases q with
    | nil => rfl
    | cons j q => exact absurd h.symm (assemble_cons_ne_nil j q)
  | cons i p ih =>
    intro q h
    cases q with
    | nil => exact absurd h (assemble_cons_ne_nil i p)
    | cons j q =>
      have hd : Decoded.instr i (assemble p) = .instr j (assemble q) := by
        rw [← decode_assemble_cons, h, decode_assemble_cons]
      obtain ⟨rfl, hpq⟩ := Decoded.instr.inj hd
      rw [ih q hpq]

/-! ## The ignored bits of a register operand byte -/

/-- An operand's value does not depend on the ignored bits of its byte (30_encoding.md R64). -/
theorem State.regOperand_and_7 (s : State) (a : Cell) : s.regOperand (a &&& 0x07#8) = s.regOperand a :=
  congrArg s.getReg (rsel_and_7 a)

/-- The assembled form has no ignored bit to clear (30_encoding.md R71). -/
theorem and_7_of_assembledRegByte {a : Cell} (h : assembledRegByte a = true) : a &&& 0x07#8 = a := by
  revert a; decide

/-- An instruction uses a register operand byte through `rsel` alone (30_encoding.md R64, R69). -/
theorem nextState_canonical (i : Instr) (s : State) : nextState i.canonical s = nextState i s := by
  cases i with
  | nop | hlt | ret => rfl
  | ldi a b | pop a => simp only [Instr.canonical, nextState, rsel_and_7]
  | prn a | push a | call a => simp only [Instr.canonical, nextState, State.regOperand_and_7]
  | add a b | mul a b | cmp a b => simp only [Instr.canonical, nextState, rsel_and_7, State.regOperand_and_7]

theorem canonical_wellFormed (i : Instr) : i.canonical.wellFormed = true := by
  cases i with
  | nop | hlt | ret => rfl
  | ldi a b | prn a | push a | pop a | call a => exact Laws.EncodingShape.masked_byte_assembled a
  | add a b | mul a b | cmp a b => exact Laws.EncodingShape.masked_bytes_assembled a b

theorem canonical_of_wellFormed {i : Instr} (h : i.wellFormed = true) : i.canonical = i := by
  cases i with
  | nop | hlt | ret => rfl
  | ldi a b | prn a | push a | pop a | call a => simp only [Instr.canonical, and_7_of_assembledRegByte h]
  | add a b | mul a b | cmp a b =>
    obtain ⟨ha, hb⟩ := (Bool.and_eq_true _ _).mp h
    simp only [Instr.canonical, and_7_of_assembledRegByte ha, and_7_of_assembledRegByte hb]

/-- Settles O8: the canonical form has the same next state. -/
theorem ignoredOperandBits : Obligations.IgnoredOperandBits := by
  intro i s
  refine ⟨?_, canonical_wellFormed i, canonical_of_wellFormed⟩
  rw [exec_eq, exec_eq, nextState_canonical]

/-! ## The opcode table -/

theorem byte_pcControl_clear {m : Mnemonic} (hcall : m ≠ .call) (hret : m ≠ .ret) : m.byte.toNat / 16 % 2 = 0 := by
  cases m with
  | call => exact absurd rfl hcall
  | ret => exact absurd rfl hret
  | _ => rfl

/-- Settles O1: the lookup tells the opcode bytes apart, and their bit fields are read off the table. -/
theorem opcodeAssignmentConstraints : Obligations.OpcodeAssignmentConstraints :=
  ⟨fun _ _ h => byte_injective h, by decide, by decide, by decide, by decide, fun _ => byte_pcControl_clear⟩

/-- Settles O4: the eleven words are encodings, and 0xC0 is not in the dispatch table. -/
theorem specWordsDecode : Obligations.SpecWordsDecode :=
  ⟨decode_encode_append .nop [], decode_encode_append .hlt [], decode_encode_append (.ldi _ _) [],
    decode_encode_append (.add _ _) [], decode_encode_append (.mul _ _) [], decode_encode_append (.cmp _ _) [],
    decode_encode_append (.prn _) [], decode_encode_append (.push _) [], decode_encode_append (.pop _) [],
    decode_encode_append (.call _) [], decode_encode_append .ret [], decode_invalid (by decide) _⟩

end Sys2Proof.Machine

namespace Sys2Proof.Machine

/-! ## The dispatch lookup -/

theorem ofNat_toNat_cell (v : Cell) : BitVec.ofNat 8 v.toNat = v := by simp

/-- 40_cycle.md R83, both ways. -/
theorem lookup_eq_some_iff {op : Cell} {m : Mnemonic} : lookup op = some m ↔ op = m.byte :=
  ⟨lookup_eq_some, fun h => h ▸ lookup_byte m⟩

theorem mnemonic_mem_all (m : Mnemonic) : m ∈ Mnemonic.all := by
  cases m <;> decide

/-- The dispatch table's bytes are those the lookup finds a handler for (40_cycle.md R83). -/
theorem mem_map_byte_iff {op : Cell} : op ∈ Mnemonic.all.map Mnemonic.byte ↔ lookup op ≠ none := by
  rw [List.mem_map, Option.ne_none_iff_exists']
  exact ⟨fun ⟨m, _, h⟩ => ⟨m, lookup_eq_some_iff.mpr h.symm⟩,
    fun ⟨m, h⟩ => ⟨m, mnemonic_mem_all m, (lookup_eq_some h).symm⟩⟩

/-- The bytes with a handler, counted up, are the dispatch table's. -/
theorem filter_lookup_perm :
    ((List.range 256).filter fun n => !decide (lookup (BitVec.ofNat 8 n) = none)).Perm
      (Mnemonic.all.map fun m => m.byte.toNat) := by
  refine (List.perm_ext_iff_of_nodup (List.nodup_range.filter _) (by decide)).mpr fun n => ?_
  rw [List.mem_filter, List.mem_range, Bool.not_eq_true', decide_eq_false_iff_not, ← ne_eq, ← mem_map_byte_iff,
    List.mem_map, List.mem_map]
  constructor
  · rintro ⟨hn, m, hm, h⟩
    exact ⟨m, hm, by rw [h, BitVec.toNat_ofNat, Nat.mod_eq_of_lt hn]⟩
  · rintro ⟨m, hm, rfl⟩
    exact ⟨m.byte.isLt, m, hm, (ofNat_toNat_cell _).symm⟩

/-- Settles O3: the lookup compares whole bytes, and finds a handler for eleven of the 256. -/
theorem dispatcherMatchesWholeByte : Obligations.DispatcherMatchesWholeByte := by
  refine ⟨fun _ _ => lookup_eq_some_iff, ?_⟩
  have hsplit := List.length_eq_length_filter_add (l := List.range 256) fun n => decide (lookup (BitVec.ofNat 8 n) = none)
  rw [filter_lookup_perm.length_eq, List.length_range] at hsplit
  exact Nat.add_right_cancel hsplit.symm

/-! ## The decoder's bit fields -/

theorem operandCount_eq (op : Cell) : operandCount op = (op.toNat >>> 6) &&& 3 := rfl

theorem opcodeId_eq (op : Cell) : opcodeId op = op.toNat &&& 15 := rfl

theorem setsPcItself_eq_true_iff (op : Cell) : setsPcItself op = true ↔ (op.toNat >>> 4) &&& 1 = 1 := by
  rw [setsPcItself, beq_iff_eq, ← BitVec.toNat_inj]
  rfl

/-- PC control as a number, as R90 uses it. -/
theorem toNat_setsPcItself (op : Cell) : (setsPcItself op).toNat = (op.toNat >>> 4) &&& 1 := by
  have hlt : (op.toNat >>> 4) &&& 1 ≤ 1 := Nat.and_le_right
  cases hp : setsPcItself op with
  | true => exact ((setsPcItself_eq_true_iff op).mp hp).symm
  | false =>
    have hne : (op.toNat >>> 4) &&& 1 ≠ 1 := fun h => Bool.false_ne_true (hp.symm.trans ((setsPcItself_eq_true_iff op).mpr h))
    rw [Bool.toNat_false]
    omega

/-- Settles O2: the fields are quotients and remainders of the byte by powers of two. -/
theorem opcodeBitFields : Obligations.OpcodeBitFields := by
  intro op
  refine ⟨operandCount_eq op, Nat.and_le_right, setsPcItself_eq_true_iff op, ?_⟩
  have hop : op.toNat < 256 := op.isLt
  rw [toNat_setsPcItself, operandCount_eq, opcodeId_eq]
  have h3 (n : Nat) : n &&& 3 = n % 4 := Nat.and_two_pow_sub_one_eq_mod n 2
  have h1 (n : Nat) : n &&& 1 = n % 2 := Nat.and_two_pow_sub_one_eq_mod n 1
  have h15 (n : Nat) : n &&& 15 = n % 16 := Nat.and_two_pow_sub_one_eq_mod n 4
  rw [h3, h1, h15, Nat.shiftRight_eq_div_pow, Nat.shiftRight_eq_div_pow]
  omega

/-! ## The cycle -/

/-- Settles O40: an instruction ends in its next state, and a step request does one of three things. -/
theorem everyStepCompletes : Obligations.EveryStepCompletes := by
  refine ⟨fun i s => ⟨_, exec_eq i s⟩, fun s => ?_⟩
  obtain ⟨-, h⟩ | ⟨-, -, h⟩ | ⟨-, i, -, -, h⟩ := step_cases s
  · exact ⟨_, h⟩
  · exact ⟨_, h⟩
  · exact ⟨_, h.trans (exec_eq i _)⟩

/-- Settles O43: the record the exception makes. -/
theorem invalidOpcodeTaken : Obligations.InvalidOpcodeTaken := fun _ hr hl => step_invalid hr hl

/-- Settles O44, by induction on the number of requests. -/
theorem haltedIsTerminal : Obligations.HaltedIsTerminal := by
  intro k s hr
  induction k with
  | zero => exact requests_zero s
  | succ k ih => rw [requests_succ (step_halted hr), ih]

/-- A cycle writes IR before anything reads it (40_cycle.md R84). -/
theorem step_withIr {s : State} (hr : s.run = .running) (op : Cell) : step { s with ir := op } = step s := by
  cases s
  cases hr
  rfl

/-- Settles O42: the next state has the Cell fetched in IR, and the latch forgets what IR held. -/
theorem fetchLatchesOpcode : Obligations.FetchLatchesOpcode := by
  intro s old hr
  obtain ⟨t, ht⟩ := everyStepCompletes.2 s
  exact ⟨t, ht, step_ir hr ht, (step_withIr hr old).trans ht⟩

/-- Settles O45: the cycle takes the exception, or runs HLT, or another instruction, which leaves RUN; the last two keep FAULT,
which the invariant says is empty. -/
theorem threeOutcomes : Obligations.ThreeOutcomes := by
  intro s hs hr
  have hf : s.fault = none := hs.fault_none hr
  obtain ⟨t, ht⟩ := everyStepCompletes.2 s
  refine ⟨t, ht, ?_⟩
  obtain ⟨hh, -⟩ | ⟨-, -, rfl⟩ | ⟨-, i, -, hb, rfl⟩ := step_next_cases ht
  · cases hr.symm.trans hh
  · exact .inr (.inr ⟨rfl, rfl⟩)
  · rw [nextState_run, nextState_fault, hb]
    by_cases hi : i = .hlt
    · subst hi
      exact .inr (.inl ⟨rfl, hf, rfl⟩)
    · rw [if_neg hi]
      exact .inl ⟨hr, hf⟩

@[simp] theorem operandCells_length (s : State) (n : Nat) : (s.operandCells n).length = n := by
  simp [State.operandCells]

/-- From a latched IR, the instruction fetched is the one with this opcode byte and these operand bytes
(40_cycle.md R85, R86). -/
theorem fetchInstr_eq_some_iff {s : State} {i : Instr} :
    s.fetchInstr = some i ↔ s.ir = i.mnemonic.byte ∧ s.operandCells i.operandBytes.length = i.operandBytes := by
  constructor
  · intro h
    have hir : s.ir = i.mnemonic.byte := fetchInstr_mnemonic h
    refine ⟨hir, ?_⟩
    simp only [State.fetchInstr, hir, lookup_byte, operandCount_byte, Option.map_eq_some_iff] at h
    obtain ⟨⟨j, rest⟩, hb, rfl⟩ := h
    obtain ⟨-, hcells⟩ := build_some hb
    have hrest : rest = [] := by simpa using congrArg List.length hcells
    rw [← hcells, hrest, List.append_nil]
  · rintro ⟨hir, hcells⟩
    have hb := build_operandBytes i []
    rw [List.append_nil] at hb
    simp only [State.fetchInstr, hir, lookup_byte, operandCount_byte, hcells, hb, Option.map_some]

/-- The operand Cells are the first of the Cells after the opcode (20_memory.md R44). -/
theorem operandCells_eq_take (s : State) {n : Nat} (hn : n ≤ 2) :
    s.operandCells n = s.window.tail.take n := by
  match n with
  | 0 | 1 | 2 => simp [State.window]

/-- The fetch reads what the decoder makes of the Cells at PC. -/
theorem fetchInstr_of_decode {s : State} {i : Instr} {rest : List Cell} (h : decode s.window = .instr i rest) :
    s.latchOpcode.fetchInstr = some i := by
  have hw : encode i ++ rest = s.window := encodeOfDecode _ _ _ h
  obtain ⟨hop, hbytes⟩ := List.cons.inj hw
  refine fetchInstr_eq_some_iff.mpr ⟨hop.symm, ?_⟩
  calc s.latchOpcode.operandCells i.operandBytes.length
    _ = s.window.tail.take i.operandBytes.length := operandCells_eq_take s.latchOpcode (operandBytes_length_le i)
    _ = (i.operandBytes ++ rest).take i.operandBytes.length := congrArg _ hbytes.symm
    _ = i.operandBytes := List.take_left

/-- Settles O41: the fetch reads the decoded instruction. -/
theorem stepRunsDecodedInstruction : Obligations.StepRunsDecodedInstruction :=
  fun _ _ _ hr h => step_exec hr (fetchInstr_of_decode h)

/-! ## Memory full of NOP -/

/-- A step on NOP advances PC by one and leaves NOP's opcode in IR (41_nop_hlt.md R100). -/
theorem step_nop {s : State} (hr : s.run = .running) (hb : s.mem.read s.pc.toNat = Mnemonic.nop.byte) :
    step s = .next { s with pc := s.pc + 1#8, ir := s.mem.read s.pc.toNat } :=
  step_fetched (i := .nop) hr (fetchInstr_eq_some_iff.mpr ⟨hb, rfl⟩)

/-- Settles O56, by induction on the number of requests. -/
theorem nopMemoryRunsForever : Obligations.NopMemoryRunsForever := by
  intro k
  induction k with
  | zero =>
    intro s _ _
    exact ⟨s, requests_zero s, (Nat.mod_eq_of_lt s.pc.isLt).symm, rfl⟩
  | succ k ih =>
    intro s hr hm
    obtain ⟨t, ht, hpc, hs⟩ := ih { s with pc := s.pc + 1#8, ir := s.mem.read s.pc.toNat } hr hm
    refine ⟨t, (requests_succ (step_nop hr (hm _))).trans ht, ?_, hs⟩
    rw [hpc, toNat_add_one]
    omega

/-! ## The machine is R90 -/

theorem r90Step_halted {s : State} (hr : s.run = .halted) : r90Step s = s :=
  if_pos hr

theorem r90Step_invalid {s : State} (hr : s.run = .running) (hl : lookup (s.mem.read s.pc.toNat) = none) :
    r90Step s = s.latchOpcode.raiseInvalidOpcode s.pc (s.mem.read s.pc.toNat) := by
  have hmem : s.mem.read s.pc.toNat ∉ Mnemonic.all.map Mnemonic.byte := fun h => mem_map_byte_iff.mp h hl
  exact (if_neg (by simp [hr])).trans (if_pos hmem)

/-- R90's operand variable `a`, 0 where the instruction has no operand byte. -/
def operandA (i : Instr) : Cell := i.operandBytes.getD 0 0#8

/-- R90's operand variable `b`, 0 where the instruction has no second operand byte. -/
def operandB (i : Instr) : Cell := i.operandBytes.getD 1 0#8

/-- R90's `t`, 0 where the handler gives none. -/
def jumpTarget : Instr → State → Nat
  | .call a, s => (s.regOperand a).toNat
  | .ret, s => s.top.toNat
  | _, _ => 0

/-- R90's decremented SP. -/
theorem toNat_sub_one_toNat (sp : Cell) : (((sp.toNat : Int) - 1) % 256).toNat = (sp - 1#8).toNat := by
  rw [← toNat_sub_one_cast, Int.toNat_natCast]

/-- R90's incremented SP. -/
theorem ofNat_toNat_add_one (sp : Cell) : BitVec.ofNat 8 ((sp.toNat + 1) % 256) = sp + 1#8 := by
  rw [← toNat_add_one, ofNat_toNat_cell]

theorem ofNat_toNat_add (u v : Cell) : BitVec.ofNat 8 ((u.toNat + v.toNat) % 256) = u + v := by
  rw [← BitVec.toNat_add, ofNat_toNat_cell]

theorem ofNat_toNat_mul (u v : Cell) : BitVec.ofNat 8 (u.toNat * v.toNat % 256) = u * v := by
  rw [← BitVec.toNat_mul, ofNat_toNat_cell]

/-- Step 5 of R90 leaves PC as it was, and else gives the next state of the instruction. -/
theorem r90Handler_eq (i : Instr) (s : State) :
    r90Handler s i.mnemonic.byte (operandA i) (operandB i) = ({ nextState i s with pc := s.pc }, jumpTarget i s) := by
  simp only [r90Handler, byte_injective.eq_iff]
  cases i with
  | nop | hlt => rfl
  | ldi a b => simp only [ofNat_toNat_and_255]; rfl
  | add a b => simp only [ofNat_toNat_add]; rfl
  | mul a b => simp only [ofNat_toNat_mul]; rfl
  | cmp a b => simp only [BitVec.toNat_inj]; rfl
  | prn a => simp only [ofNat_toNat_cell]; rfl
  | push a | call a => simp only [toNat_sub_one_toNat, ofNat_toNat_cell]; rfl
  | pop a => simp only [ofNat_toNat_cell, ofNat_toNat_add_one]; rfl
  | ret => simp only [ofNat_toNat_add_one]; rfl

/-- Step 6 of R90, where the handler gives the target. -/
theorem nextState_pc_jumpTarget {i : Instr} (h : setsPcItself i.mnemonic.byte = true) (s : State) :
    (nextState i s).pc = BitVec.ofNat 8 (jumpTarget i s &&& (Config.capacity - 1)) := by
  obtain ⟨a, rfl⟩ | rfl := (setsPcItself_iff i).mp h
  · exact (ofNat_toNat_and_255 _).symm
  · exact (ofNat_toNat_and_255 _).symm

/-- Step 6 of R90, the auto-advance. -/
theorem nextState_pc_ofNat {i : Instr} (h : setsPcItself i.mnemonic.byte = false) (s : State) :
    (nextState i s).pc = BitVec.ofNat 8 ((s.pc.toNat + operandCount i.mnemonic.byte + 1) % Config.capacity) :=
  BitVec.eq_of_toNat_eq (by simpa using (pcAdvance i s _ (exec_eq i s)).1 h)

/-- Step 4 of R90: its operand variables are the operand Cells fetched, 0 past their end (40_cycle.md R86). -/
theorem operandCells_getD (s : State) {n : Nat} (hn : n ≤ 2) :
    (s.operandCells n).getD 0 0#8 = (if 1 ≤ n then s.mem.read ((s.pc.toNat : Int) + 1) else 0#8) ∧
    (s.operandCells n).getD 1 0#8 = if n = 2 then s.mem.read ((s.pc.toNat : Int) + 2) else 0#8 := by
  match n with
  | 0 | 1 | 2 => simp

/-- R90 on a registered opcode: its operands are the instruction's, its handler gives the next state but PC, and PC is written
as the PC-control bit says. -/
theorem r90Step_fetched {s : State} (hr : s.run = .running) {i : Instr} (hi : s.latchOpcode.fetchInstr = some i) :
    r90Step s = nextState i s.latchOpcode := by
  obtain ⟨(hop : s.mem.read s.pc.toNat = i.mnemonic.byte), hcells⟩ := fetchInstr_eq_some_iff.mp hi
  have hmem : s.mem.read s.pc.toNat ∈ Mnemonic.all.map Mnemonic.byte := hop ▸ List.mem_map_of_mem (mnemonic_mem_all _)
  rw [r90Step, if_neg (by simp [hr])]
  extract_lets pc0 IR latched n p a b after
  have hIR : IR = i.mnemonic.byte := hop
  have hn : n = i.operandBytes.length := (congrArg operandCount hIR).trans (operandCount_byte i)
  have hp : p = (setsPcItself i.mnemonic.byte).toNat := hIR ▸ (toNat_setsPcItself IR).symm
  have hops := operandCells_getD s.latchOpcode (operandBytes_length_le i)
  rw [hcells, ← hn] at hops
  obtain ⟨ha : operandA i = a, hb : operandB i = b⟩ := hops
  have hafter : after = ({ nextState i latched with pc := s.pc }, jumpTarget i latched) := by
    rw [← r90Handler_eq, ← hIR, ha, hb]
  refine (if_neg (not_not.mpr hmem)).trans ?_
  cases h : setsPcItself i.mnemonic.byte with
  | false =>
    have hp0 : p = 0 := hp.trans (congrArg Bool.toNat h)
    have hpc := nextState_pc_ofNat h latched
    rw [operandCount_byte, ← hn] at hpc
    calc
      _ = { after.1 with pc := BitVec.ofNat 8 ((pc0 + n + 1) % Config.capacity) } := if_pos hp0
      _ = { nextState i latched with pc := (nextState i latched).pc } := by rw [hafter, hpc]
      _ = nextState i s.latchOpcode := rfl
  | true =>
    have hp1 : p ≠ 0 := hp.trans (congrArg Bool.toNat h) ▸ one_ne_zero
    calc
      _ = { after.1 with pc := BitVec.ofNat 8 (after.2 &&& (Config.capacity - 1)) } := if_neg hp1
      _ = { nextState i latched with pc := (nextState i latched).pc } := by rw [hafter, nextState_pc_jumpTarget h]
      _ = nextState i s.latchOpcode := rfl

/-- Settles O46, by the three things a step request can do. -/
theorem stepIsR90 : Obligations.StepIsR90 := by
  intro s
  obtain ⟨hr, hs⟩ | ⟨hr, hl, hs⟩ | ⟨hr, i, hi, -, hs⟩ := step_cases s
  · rw [hs, r90Step_halted hr]
  · rw [hs, r90Step_invalid hr hl]
  · rw [hs, exec_eq, r90Step_fetched hr hi]

end Sys2Proof.Machine

namespace Sys2Proof.Machine

/-! ## NOP and HLT -/

/-- Settles O16: the auto-advance of `nextState`, written as R100 writes it. -/
theorem nopResult : Obligations.NopResult := by
  intro s
  rw [ofNat_toNat_add_one]
  exact exec_eq .nop s

/-- Settles O17: the auto-advance of `nextState`, written as R101 writes it. -/
theorem hltResult : Obligations.HltResult := by
  intro s
  rw [ofNat_toNat_add_one]
  exact exec_eq .hlt s

/-- NOP, HLT, CMP and PRN write no register, no SP and no Cell of memory (10_state.md R11). -/
theorem nextState_nonStoring {i : Instr} {a b : Cell} (h : i = .nop ∨ i = .hlt ∨ i = .cmp a b ∨ i = .prn a) (s : State) :
    SameRegs s (nextState i s) ∧ (nextState i s).sp = s.sp ∧ SameMemory s (nextState i s) := by
  rcases h with rfl | rfl | rfl | rfl <;> exact ⟨fun _ => rfl, rfl, fun _ => rfl⟩

/-- Settles O28: of the fields the four instructions write besides PC, RUN, FL and OUT have one writer each. -/
theorem nonStoringFrame : Obligations.NonStoringFrame := by
  intro a b i s t hi h
  rw [exec_eq_next_iff.mp h]
  obtain ⟨hregs, hsp, hmem⟩ := nextState_nonStoring hi s
  have hrun (hne : i ≠ .hlt) : (nextState i s).run = s.run := (nextState_run i s).trans (if_neg hne)
  have hfl (hne : i ≠ .cmp a b) : (nextState i s).fl = s.fl := by
    rcases hi with rfl | rfl | rfl | rfl
    · rfl
    · rfl
    · exact absurd rfl hne
    · rfl
  have hout (hne : i ≠ .prn a) : (nextState i s).out = s.out := by
    rcases hi with rfl | rfl | rfl | rfl
    · rfl
    · rfl
    · rfl
    · exact absurd rfl hne
  exact ⟨hregs, hsp, ⟨nextState_ir i s, nextState_fault i s⟩, hmem, hrun, hfl, hout⟩

end Sys2Proof.Machine

namespace Sys2Proof.Machine

/-! ## LDI -/

theorem State.getReg_setReg_same (s : State) (r : Reg) (v : Cell) : (s.setReg r v).getReg r = v := by
  rw [State.getReg_setReg, if_pos rfl]

/-- The mask of an immediate keeps every Cell (42_ldi.md R105). -/
theorem toNat_and_255 (v : Cell) : v.toNat &&& 255 = v.toNat :=
  congrArg BitVec.toNat (and_255 v)

/-- Settles O18: the register written reads back as the immediate, which the mask keeps. -/
theorem ldiResult : Obligations.LdiResult := by
  intro a b s
  refine ⟨_, exec_eq (.ldi a b) s, ?_, BitVec.toNat_add s.pc 3#8⟩
  have hreg : (nextState (.ldi a b) s).getReg (rsel a) = b := State.getReg_setReg_same _ _ _
  rw [hreg, toNat_and_255]

end Sys2Proof.Machine

namespace Sys2Proof.Machine

/-! ## The ALU -/

theorem alu_add (u v : Cell) : alu .add u v = ⟨some (u + v), none⟩ :=
  congrArg (fun x => AluOutput.mk (some x) none) (ofNat_toNat_add u v)

theorem alu_mul (u v : Cell) : alu .mul u v = ⟨some (u * v), none⟩ :=
  congrArg (fun x => AluOutput.mk (some x) none) (ofNat_toNat_mul u v)

/-- A flag update writes one bit of FL, or none (43_alu.md R110). -/
theorem getLsbD_putFlag (fl : Cell) {bit : Nat} (hbit : bit < 8) (o : Option Bool) (k : Nat) :
    (putFlag fl bit o).getLsbD k = if k = bit then o.getD (fl.getLsbD k) else fl.getLsbD k := by
  have hmask : (1#8 <<< bit).getLsbD k = decide (k = bit) := by
    rw [← BitVec.twoPow_eq, BitVec.getLsbD_twoPow, decide_eq_true hbit, Bool.true_and]
    exact decide_eq_decide.mpr eq_comm
  cases o with
  | none => exact (ite_self _).symm
  | some x =>
    cases x with
    | true =>
      rw [putFlag, BitVec.getLsbD_or, hmask]
      by_cases h : k = bit <;> simp [h]
    | false =>
      rw [putFlag, BitVec.getLsbD_and, BitVec.getLsbD_not, hmask]
      by_cases h : k = bit
      · simp [h]
      · have hlt : fl.getLsbD k = true → k < 8 := BitVec.lt_of_getLsbD
        simpa [h] using hlt

/-! ### The flags of a flag update, each kept where the update leaves it out (43_alu.md R110) -/

theorem flagE_applyFlags (fl : Cell) (d : FlagsDelta) : flagE (applyFlags fl d) = d.equal.getD (flagE fl) := by
  simp only [flagE, applyFlags, getLsbD_putFlag, Nat.reduceLT, Nat.reduceEqDiff, ↓reduceIte]

theorem flagG_applyFlags (fl : Cell) (d : FlagsDelta) : flagG (applyFlags fl d) = d.greater.getD (flagG fl) := by
  simp only [flagG, applyFlags, getLsbD_putFlag, Nat.reduceLT, Nat.reduceEqDiff, ↓reduceIte]

theorem flagL_applyFlags (fl : Cell) (d : FlagsDelta) : flagL (applyFlags fl d) = d.less.getD (flagL fl) := by
  simp only [flagL, applyFlags, getLsbD_putFlag, Nat.reduceLT, Nat.reduceEqDiff, ↓reduceIte]

/-! ### The write-back, of any output (43_alu.md R110) -/

theorem writeBack_eq (s : State) (r : Reg) (o : AluOutput) :
    s.writeBack r o = { s with
      regs := (o.result.elim s (s.setReg r)).regs
      fl := o.flagsDelta.elim s.fl (applyFlags s.fl) } := by
  obtain ⟨result, flagsDelta⟩ := o
  cases result <;> cases flagsDelta <;> rfl

theorem writeBack_getReg_same (s : State) (r : Reg) (o : AluOutput) :
    (s.writeBack r o).getReg r = o.result.getD (s.getReg r) := by
  rw [writeBack_eq]
  cases o.result with
  | none => rfl
  | some v => exact s.getReg_setReg_same r v

theorem writeBack_sameRegsBut (s : State) (r : Reg) (o : AluOutput) : SameRegsBut r s (s.writeBack r o) := by
  intro q hq
  rw [writeBack_eq]
  cases o.result with
  | none => rfl
  | some v => exact s.getReg_setReg_ne hq v

/-- A flag of FL that a flag update writes where it includes it, after the write-back of any output. -/
theorem writeBack_flag {flag : Cell → Bool} {field : FlagsDelta → Option Bool}
    (h : ∀ fl d, flag (applyFlags fl d) = (field d).getD (flag fl)) (s : State) (r : Reg) (o : AluOutput) :
    flag (s.writeBack r o).fl = (o.flagsDelta.bind field).getD (flag s.fl) := by
  rw [writeBack_eq]
  cases o.flagsDelta with
  | none => rfl
  | some d => exact h s.fl d

/-- Settles O14: the table row by row, and the write-back of whatever the table gives. -/
theorem aluContract : Obligations.AluContract := by
  refine ⟨fun va vb => ⟨⟨_, alu_add va vb, BitVec.toNat_add va vb⟩, ⟨_, alu_mul va vb, BitVec.toNat_mul va vb⟩, rfl⟩, ?_⟩
  intro s op a b o t
  have ht : t = s.writeBack (rsel a) o := rfl
  rw [ht]
  exact ⟨writeBack_getReg_same s _ o, writeBack_sameRegsBut s _ o, writeBack_flag flagE_applyFlags s _ o,
    writeBack_flag flagG_applyFlags s _ o, writeBack_flag flagL_applyFlags s _ o, by rw [writeBack_eq]⟩

/-- The additive inverse of R116, as the Cell that stands for `256 - u`. -/
theorem ofNat_256_sub_toNat (u : Cell) : BitVec.ofNat 8 (256 - u.toNat) = -u := by
  apply BitVec.eq_of_toNat_eq
  rw [BitVec.toNat_ofNat, BitVec.toNat_neg]

/-- Settles O15: the results are the sum and the product of the library's ring of bit vectors. -/
theorem arithmeticLaws : Obligations.ArithmeticLaws := by
  simp only [Obligations.ArithmeticLaws, alu_add, alu_mul, Option.getD_some, ofNat_256_sub_toNat]
  intro u v w
  exact ⟨BitVec.add_comm u v, BitVec.add_assoc u v w, BitVec.add_zero u, BitVec.mul_comm u v, BitVec.mul_assoc u v w,
    BitVec.mul_one u, BitVec.mul_zero, BitVec.mul_add, BitVec.add_right_neg u⟩

/-- ADD and MUL end in a register write past three Cells: the value reads back, FL is kept (43_alu.md R112, R113). -/
theorem exec_of_nextState_setReg {i : Instr} {s : State} {r : Reg} {v : Cell}
    (h : nextState i s = State.setReg { s with pc := s.pc + 3#8 } r v) :
    ∃ t, exec i s = .next t ∧ t.getReg r = v ∧ t.fl = s.fl ∧ t.pc.toNat = (s.pc.toNat + 3) % 256 :=
  ⟨_, (exec_eq i s).trans (congrArg _ h), State.getReg_setReg_same _ r v, rfl, BitVec.toNat_add s.pc 3#8⟩

/-- Settles O19: the register written reads back as the sum of the two values before. -/
theorem addResult : Obligations.AddResult := by
  intro a b s
  obtain ⟨t, ht, hreg, hfl, hpc⟩ := exec_of_nextState_setReg (i := .add a b) (s := s) rfl
  exact ⟨t, ht, hreg ▸ BitVec.toNat_add _ _, hfl, hpc⟩

/-- Settles O20: the register written reads back as the product of the two values before. -/
theorem mulResult : Obligations.MulResult := by
  intro a b s
  obtain ⟨t, ht, hreg, hfl, hpc⟩ := exec_of_nextState_setReg (i := .mul a b) (s := s) rfl
  exact ⟨t, ht, hreg ▸ BitVec.toNat_mul _ _, hfl, hpc⟩

/-- CMP makes E the equality of the two registers (43_alu.md R114). -/
theorem flagE_nextState_cmp (a b : Cell) (s : State) :
    flagE (nextState (.cmp a b) s).fl = decide (s.getReg (rsel a) = s.getReg (rsel b)) := by
  have hfl : (nextState (.cmp a b) s).fl = applyFlags s.fl (compareFlags (s.getReg (rsel a)) (s.getReg (rsel b))) :=
    (applyFlags_compare _ _ _).symm
  rw [hfl, flagE_applyFlags]
  rfl

/-- Settles O21: E as CMP's flag update makes it, the other bits by the law of FL's one writer. -/
theorem cmpResult : Obligations.CmpResult := by
  intro a b s
  obtain ⟨hbits, -⟩ := flagsOnlyByCmp (.cmp a b) s _ (exec_eq (.cmp a b) s)
  refine ⟨_, exec_eq (.cmp a b) s, ?_, hbits, fun _ => rfl, BitVec.toNat_add s.pc 3#8⟩
  rw [flagE_nextState_cmp, decide_eq_true_iff]

end Sys2Proof.Machine

namespace Sys2Proof.Machine

/-! ## PRN and the output port -/

/-- Settles O22: the auto-advance and the emission of `nextState`. -/
theorem prnResult : Obligations.PrnResult := fun a s =>
  ⟨_, exec_eq (.prn a) s, rfl, BitVec.toNat_add s.pc 2#8⟩

/-- An instruction other than PRN emits nothing (10_state.md R31). -/
theorem emitted_eq_nil {i : Instr} (h : ∀ a, i ≠ .prn a) (s : State) : emitted i s = [] := by
  cases i with
  | prn a => exact absurd rfl (h a)
  | _ => rfl

/-- What emits a Cell is a PRN (10_state.md R31). -/
theorem eq_prn_of_emitted_ne_nil {i : Instr} {s : State} (h : emitted i s ≠ []) : ∃ a, i = .prn a := by
  by_contra hne
  exact h (emitted_eq_nil (not_exists.mp hne) s)

theorem emitted_length_le (i : Instr) (s : State) : (emitted i s).length ≤ 1 := by
  cases i with
  | prn a => exact le_rfl
  | _ => exact Nat.zero_le 1

/-- The opcode latch changes no emission: an emission is a register, not IR (40_cycle.md R84). -/
theorem emitted_latchOpcode (i : Instr) (s : State) : emitted i s.latchOpcode = emitted i s := by
  cases i <;> rfl

theorem emissions_halted {s : State} (h : s.run = .halted) : s.emissions = [] := by
  simp [State.emissions, h]

theorem emissions_invalid {s : State} (hr : s.run = .running) (hl : lookup (s.mem.read s.pc.toNat) = none) :
    s.emissions = [] := by
  have hi : s.latchOpcode.fetchInstr = none := fetchInstr_none_iff.mpr hl
  simp [State.emissions, hr, hi]

theorem emissions_fetched {s : State} (hr : s.run = .running) {i : Instr} (hi : s.latchOpcode.fetchInstr = some i) :
    s.emissions = emitted i s := by
  simp [State.emissions, hr, hi]

/-- A step request appends its emissions to OUT (10_state.md R22, R31). -/
theorem step_out {s t : State} (h : step s = .next t) : t.out = s.out ++ s.emissions := by
  obtain ⟨hr, rfl⟩ | ⟨hr, hl, rfl⟩ | ⟨hr, i, hi, -, rfl⟩ := step_next_cases h
  · rw [emissions_halted hr, List.append_nil]
  · rw [emissions_invalid hr hl, List.append_nil]
    rfl
  · rw [emissions_fetched hr hi, nextState_out, emitted_latchOpcode]
    rfl

/-- A step request emits nothing, or what the instruction fetched at PC emits (10_state.md R31). -/
theorem emissions_cases (s : State) :
    s.emissions = [] ∨ ∃ i, s.mem.read s.pc.toNat = i.mnemonic.byte ∧ s.emissions = emitted i s := by
  obtain ⟨hr, -⟩ | ⟨hr, hl, -⟩ | ⟨hr, i, hi, hb, -⟩ := step_cases s
  · exact .inl (emissions_halted hr)
  · exact .inl (emissions_invalid hr hl)
  · exact .inr ⟨i, hb, emissions_fetched hr hi⟩

theorem emissions_length_le (s : State) : s.emissions.length ≤ 1 := by
  obtain he | ⟨i, -, he⟩ := emissions_cases s
  · exact he ▸ Nat.zero_le 1
  · exact he ▸ emitted_length_le i s

/-- A step request emits only when the Cell at PC is PRN's opcode (44_prn.md R121). -/
theorem opcode_eq_prn_of_emissions_ne_nil {s : State} (h : s.emissions ≠ []) :
    s.mem.read s.pc.toNat = Mnemonic.prn.byte := by
  obtain he | ⟨i, hb, he⟩ := emissions_cases s
  · exact absurd he h
  · obtain ⟨a, rfl⟩ := eq_prn_of_emitted_ne_nil (he ▸ h)
    exact hb

/-- Settles O35: an instruction and a step append to OUT what they emit, and PRN alone emits. -/
theorem outputOnlyByPrn : Obligations.OutputOnlyByPrn := by
  refine ⟨fun a s t h => ?_, fun i s t hi h => ?_, fun s t h => ?_⟩
  · rw [exec_eq_next_iff.mp h, nextState_out]
    rfl
  · rw [exec_eq_next_iff.mp h, nextState_out, emitted_eq_nil hi, List.append_nil]
  · exact ⟨step_out h, emissions_length_le s, opcode_eq_prn_of_emissions_ne_nil⟩

end Sys2Proof.Machine

namespace Sys2Proof.Machine

/-! ## PUSH and POP -/

/-- A PUSH leaves the register's value in the Cell at the decremented SP (45_stack.md R126). -/
theorem nextState_push_read {s : State} (hm : s.mem.wf) (a : Cell) :
    (nextState (.push a) s).mem.read (s.sp - 1#8).toNat = s.getReg (rsel a) :=
  (Memory.read_write_same hm _ _).trans (ofNat_toNat_and_255 _)

/-- A POP loads its register with the Cell at SP (45_stack.md R127). -/
theorem nextState_pop_getReg (s : State) (a : Cell) :
    (nextState (.pop a) s).getReg (rsel a) = s.mem.read s.sp.toNat :=
  State.getReg_setReg_same _ _ _

/-- Settles O23: SP and PC by `nextState`, and the Cell stored reads back. -/
theorem pushResult : Obligations.PushResult := fun a s hm =>
  ⟨_, exec_eq (.push a) s, toNat_sub_one s.sp, nextState_push_read hm a, BitVec.toNat_add s.pc 2#8⟩

/-- Settles O24: SP and PC by `nextState`, and the register loaded reads back. -/
theorem popResult : Obligations.PopResult := fun a s =>
  ⟨_, exec_eq (.pop a) s, nextState_pop_getReg s a, toNat_add_one s.sp, BitVec.toNat_add s.pc 2#8⟩

/-! ### Frames of the stack instructions -/

theorem nextState_storing_sameRegs {i : Instr} {a : Cell} (h : i = .push a ∨ i = .call a) (s : State) :
    SameRegs s (nextState i s) := by
  rcases h with rfl | rfl <;> exact fun _ => rfl

theorem nextState_storing_sameMemoryBut {i : Instr} {a : Cell} (h : i = .push a ∨ i = .call a) {s : State}
    (hm : s.mem.wf) : SameMemoryBut (s.sp - 1#8).toNat s (nextState i s) := by
  obtain ⟨-, v, hmem⟩ := nextState_storing h s
  intro addr haddr
  rw [hmem, Memory.read_write_normalise hm, if_neg haddr]

/-- PUSH, CALL, POP and RET write none of FL, RUN, IR, FAULT and OUT (10_state.md R15, R16, R20 to R22). -/
theorem nextState_stack_frame {i : Instr} {a : Cell} (h : i = .push a ∨ i = .call a ∨ i = .pop a ∨ i = .ret) (s : State) :
    (nextState i s).fl = s.fl ∧ (nextState i s).run = s.run ∧ SameIrFault s (nextState i s) ∧
    (nextState i s).out = s.out := by
  rcases h with rfl | rfl | rfl | rfl <;> exact ⟨rfl, rfl, ⟨rfl, rfl⟩, rfl⟩

/-- Settles O29: PUSH and CALL write SP, PC and one Cell. -/
theorem storingFrame : Obligations.StoringFrame := by
  intro a i s t hm hi h
  rw [exec_eq_next_iff.mp h]
  obtain ⟨hfl, hrun, hir, hout⟩ := nextState_stack_frame (hi.imp_right .inl) s
  exact ⟨nextState_storing_sameRegs hi s, hfl, hrun, hir, hout, nextState_storing_sameMemoryBut hi hm⟩

/-- Settles O30: POP and RET write SP, PC, and POP its one register. -/
theorem poppingFrame : Obligations.PoppingFrame := by
  intro a i s t hi h
  rw [exec_eq_next_iff.mp h]
  obtain ⟨hfl, hrun, hir, hout⟩ := nextState_stack_frame (.inr (.inr hi)) s
  have hret : i = .ret → SameRegs s (nextState i s) := by
    rintro rfl
    exact fun _ => rfl
  have hregs : SameRegsBut (rsel a) s (nextState i s) := by
    rcases hi with rfl | rfl
    · exact fun r hr => nextState_getReg (mt List.mem_singleton.mp hr) s
    · exact fun r _ => hret rfl r
  have hmem : (nextState i s).mem = s.mem := by
    rw [nextState_mem, dataAccess_popping hi]
    rfl
  exact ⟨hregs, hret, hfl, hrun, hir, hout, fun addr => congrArg (Memory.read · addr) hmem⟩

/-! ### PUSH and then POP -/

/-- The Cell past an advanced PC is the one past the PC before, since the memory port wraps as PC does
(20_memory.md R40, 10_state.md R13). -/
theorem Memory.read_toNat_add (m : Memory) (pc n : Cell) (k : Int) :
    m.read ((pc + n).toNat + k) = m.read (pc.toNat + n.toNat + k) := by
  have h : normalise ((pc + n).toNat + k) = normalise (pc.toNat + n.toNat + k) := by
    rw [normalise_eq_iff, BitVec.toNat_add]
    omega
  exact congrArg m.cellAt h

/-- The fetch of an instruction with one operand byte (40_cycle.md R84 to R86). -/
theorem fetchInstr_latchOpcode_of_operand {s : State} {i : Instr} {a : Cell} (hi : i.operandBytes = [a])
    (hop : s.mem.read s.pc.toNat = i.mnemonic.byte) (ha : s.mem.read ((s.pc.toNat : Int) + 1) = a) :
    s.latchOpcode.fetchInstr = some i := by
  refine fetchInstr_eq_some_iff.mpr ⟨hop, ?_⟩
  rw [hi, ← ha]
  exact operandCells_one s.latchOpcode

/-- A PUSH that does not land on the two Cells after it leaves the instruction they hold to be fetched next
(45_stack.md R128). -/
theorem fetchInstr_after_push {s : State} (hm : s.mem.wf) (a : Cell) {i : Instr} {b : Cell} (hi : i.operandBytes = [b])
    (hop : s.mem.read ((s.pc.toNat : Int) + 2) = i.mnemonic.byte) (hb : s.mem.read ((s.pc.toNat : Int) + 3) = b)
    (hop_ne : normalise ((s.pc.toNat : Int) + 2) ≠ (s.sp - 1#8).toNat)
    (hb_ne : normalise ((s.pc.toNat : Int) + 3) ≠ (s.sp - 1#8).toNat) :
    (nextState (.push a) s).latchOpcode.fetchInstr = some i := by
  have hkeep {addr : Int} (hne : normalise addr ≠ (s.sp - 1#8).toNat) :
      (nextState (.push a) s).mem.read addr = s.mem.read addr := by
    refine nextState_storing_sameMemoryBut (.inl rfl) hm addr ?_
    rwa [normalise_natCast, Nat.mod_eq_of_lt (s.sp - 1#8).isLt]
  have hcell (k : Int) : (nextState (.push a) s).mem.read ((nextState (.push a) s).pc.toNat + k) =
      (nextState (.push a) s).mem.read (s.pc.toNat + 2 + k) :=
    Memory.read_toNat_add _ s.pc 2#8 k
  refine fetchInstr_latchOpcode_of_operand hi ?_ ?_
  · have hpc := hcell 0
    rw [Int.add_zero, Int.add_zero] at hpc
    exact hpc.trans ((hkeep hop_ne).trans hop)
  · rw [hcell, Int.add_assoc]
    exact (hkeep hb_ne).trans hb

/-- Settles O52: both instructions are fetched, and the POP loads the Cell the PUSH stored. -/
theorem pushThenPop : Obligations.PushThenPop := by
  intro s a b hm hr hpush ha hpop hb hpop_ne hb_ne
  have hpush_fetched : s.latchOpcode.fetchInstr = some (.push a) := fetchInstr_latchOpcode_of_operand rfl hpush ha
  have hpop_fetched : (nextState (.push a) s.latchOpcode).latchOpcode.fetchInstr = some (.pop b) :=
    fetchInstr_after_push (s := s.latchOpcode) hm a rfl hpop hb hpop_ne hb_ne
  have hstored := nextState_push_read (s := s.latchOpcode) hm a
  have hpop_step := step_fetched (s := nextState (.push a) s.latchOpcode) hr hpop_fetched
  refine ⟨_, _, step_fetched hr hpush_fetched, hpop_step, ?_, fun r hne => ?_, ?_, hstored, ?_⟩
  · exact (nextState_pop_getReg _ b).trans hstored
  · exact nextState_getReg (i := .pop b) (mt List.mem_singleton.mp hne) _
  · exact BitVec.sub_add_cancel s.sp 1#8
  · have hpc : s.pc + 2#8 + 2#8 = s.pc + 4#8 := BitVec.add_assoc s.pc 2#8 2#8
    exact (congrArg BitVec.toNat hpc).trans (BitVec.toNat_add s.pc 4#8)

end Sys2Proof.Machine

namespace Sys2Proof.Machine

/-! ## CALL and RET -/

/-- The return address, already a Cell, passes the memory port unchanged (46_call_ret.md R135; decision D16, log 14). -/
theorem ofNat_returnAddress_and_255 (s : State) : BitVec.ofNat 8 (s.returnAddress &&& 255) = s.pc + 2#8 := by
  have hra : s.returnAddress = (s.pc + 2#8).toNat := (BitVec.toNat_add s.pc 2#8).symm
  rw [hra, ofNat_toNat_and_255]

/-- A CALL leaves the address after it in the Cell at the decremented SP (46_call_ret.md R135). -/
theorem nextState_call_read {s : State} (hm : s.mem.wf) (a : Cell) :
    (nextState (.call a) s).mem.read (s.sp - 1#8).toNat = s.pc + 2#8 :=
  (Memory.read_write_same hm _ _).trans (ofNat_returnAddress_and_255 s)

/-- Settles O25: SP and PC by `nextState`, and the return address stored reads back. -/
theorem callResult : Obligations.CallResult := by
  intro a s hm
  refine ⟨_, exec_eq (.call a) s, toNat_sub_one s.sp, ?_, rfl⟩
  exact (congrArg BitVec.toNat (nextState_call_read hm a)).trans (BitVec.toNat_add s.pc 2#8)

/-- Settles O26: PC and SP by `nextState`. -/
theorem retResult : Obligations.RetResult := fun s =>
  ⟨_, exec_eq .ret s, rfl, toNat_add_one s.sp⟩

/-- A RET at the stack level a PUSH or CALL left, the Cell on top as it left it, jumps to that Cell and restores SP
(46_call_ret.md R136, R137). -/
theorem nextState_ret_of_storing {i : Instr} {a : Cell} (h : i = .push a ∨ i = .call a) {s u : State}
    (hsp : u.sp = (nextState i s).sp)
    (hread : u.mem.read (nextState i s).sp.toNat = (nextState i s).mem.read (nextState i s).sp.toNat) :
    (nextState .ret u).pc = (nextState i s).mem.read (s.sp - 1#8).toNat ∧ (nextState .ret u).sp = s.sp := by
  obtain ⟨hdec, -⟩ := nextState_storing h s
  rw [hdec] at hsp hread
  constructor
  · calc u.mem.read u.sp.toNat
      _ = u.mem.read (s.sp - 1#8).toNat := by rw [hsp]
      _ = (nextState i s).mem.read (s.sp - 1#8).toNat := hread
  · calc u.sp + 1#8
      _ = s.sp - 1#8 + 1#8 := by rw [hsp]
      _ = s.sp := BitVec.sub_add_cancel s.sp 1#8

/-- Settles O53: the RET takes the return address the CALL stored. -/
theorem callThenRet : Obligations.CallThenRet := by
  intro a s t u v hm hcall hsp hread hret
  rw [exec_eq_next_iff.mp hcall] at hsp hread
  rw [exec_eq_next_iff.mp hret]
  obtain ⟨hpc, hsp'⟩ := nextState_ret_of_storing (.inr rfl) hsp hread
  rw [hpc, nextState_call_read hm]
  exact ⟨BitVec.toNat_add s.pc 2#8, hsp'⟩

/-- Settles O54: the RET takes the register's value the PUSH stored. -/
theorem pushThenRetJumps : Obligations.PushThenRetJumps := by
  intro a s hm
  obtain ⟨hpc, hsp⟩ := nextState_ret_of_storing (i := .push a) (.inl rfl) (s := s) rfl rfl
  exact ⟨_, _, exec_eq (.push a) s, exec_eq .ret _, hpc.trans (nextState_push_read hm a), hsp⟩

end Sys2Proof.Machine

namespace Sys2Proof.Machine

/-! ## Cells written in ascending order -/

/-- The last Cell of a sequence is written last, at its own index past the start (70_reset_and_hazards.md R175). -/
theorem Memory.writeCells_append_singleton (m : Memory) (a : Int) (vs : List Cell) (v : Cell) :
    m.writeCells a (vs ++ [v]) = (m.writeCells a vs).write (a + vs.length) v.toNat := by
  induction vs generalizing m a with
  | nil => simp [Memory.writeCells]
  | cons u vs ih =>
    have haddr : a + 1 + vs.length = a + (u :: vs).length := by
      rw [List.length_cons]; omega
    calc m.writeCells a (u :: vs ++ [v])
      _ = ((m.write a u.toNat).writeCells (a + 1) vs).write (a + 1 + vs.length) v.toNat := ih _ _
      _ = (m.writeCells a (u :: vs)).write (a + (u :: vs).length) v.toNat := by rw [haddr]; rfl

theorem Memory.load_append_singleton (m : Memory) (image : List Cell) (v : Cell) :
    m.load (image ++ [v]) = (m.load image).write image.length v.toNat :=
  (Memory.writeCells_append_singleton m 0 image v).trans (by rw [Int.zero_add]; rfl)

/-- An address already reduced names the same Cell (20_memory.md R40). -/
theorem normalise_normalise (addr : Int) : normalise (normalise addr) = normalise addr :=
  (normalise_natCast _).trans (Nat.mod_eq_of_lt (normalise_lt addr))

/-- Settles O13: the last element is one write after the load of the others, and the memory port reduces its address. -/
theorem loaderPlacesProgram : Obligations.LoaderPlacesProgram := by
  intro m image v hm
  have hload : (m.load image).wf := Memory.load_wf hm image
  rw [Memory.load_append_singleton, ← normalise_natCast_and]
  refine ⟨rfl, ?_, fun addr haddr => ?_⟩
  · rw [Memory.read_write_normalise hload, if_pos (normalise_normalise _), ofNat_toNat_and_255]
  · rw [Memory.read_write_normalise hload, if_neg haddr]

/-- A sequence no longer than memory reads back whole: no Cell of it is written over by a later one. -/
theorem Memory.map_read_writeCells {m : Memory} (h : m.wf) (a : Int) {vs : List Cell} (hlen : vs.length ≤ Config.capacity) :
    ((List.range vs.length).map fun k : Nat => (m.writeCells a vs).read (a + k)) = vs := by
  induction vs using List.reverseRecOn with
  | nil => rfl
  | append_singleton vs v ih =>
    rw [List.length_append, List.length_singleton] at hlen ⊢
    have hlen : vs.length + 1 ≤ 256 := hlen
    have hwf : (m.writeCells a vs).wf := Memory.writeCells_wf h a vs
    have hbefore (k : Nat) (hk : k ∈ List.range vs.length) :
        ((m.writeCells a vs).write (a + vs.length) v.toNat).read (a + k) = (m.writeCells a vs).read (a + k) := by
      have hk : k < vs.length := List.mem_range.mp hk
      exact Memory.read_write_other hwf (by omega) v.toNat
    rw [Memory.writeCells_append_singleton, List.range_succ, List.map_append, List.map_singleton,
      List.map_congr_left hbefore, ih (Nat.le_of_succ_le hlen), Memory.read_write_same hwf, ofNat_toNat_and_255]

/-! ## A table word placed where the next cycle fetches -/

theorem window_eq_map (s : State) :
    s.window = (List.range longestInstr).map fun k : Nat => s.mem.read ((s.pc.toNat : Int) + k) := by
  simp [State.window, longestInstr, List.range_succ]

theorem tableWordBytes_length (nbits w : Nat) : (tableWordBytes nbits w).length = longestInstr := by
  simp [tableWordBytes]

/-- The Cells the next cycle can fetch are the bytes of the word placed (log 17). -/
theorem window_withFetchWord {s : State} (hm : s.mem.wf) (nbits w : Nat) :
    (s.withFetchWord nbits w).window = tableWordBytes nbits w := by
  have hlen : (tableWordBytes nbits w).length ≤ Config.capacity := by
    rw [tableWordBytes_length]; decide
  rw [window_eq_map, ← tableWordBytes_length nbits w]
  exact Memory.map_read_writeCells hm s.pc.toNat hlen

/-- A table word's instruction is what its bytes decode to. -/
theorem decode_of_decodeTableWord {nbits w : Nat} {i : Instr} (h : decodeTableWord nbits w = some i) :
    ∃ rest, decode (tableWordBytes nbits w) = .instr i rest := by
  unfold decodeTableWord at h
  split at h
  case h_1 j rest hd => exact ⟨rest, Option.some.inj h ▸ hd⟩
  case h_2 => cases h

/-- Settles O57: the Cells at PC are the word's bytes, and the step runs what they decode to. -/
theorem placedWordRuns : Obligations.PlacedWordRuns := by
  intro s nbits w i hm h
  obtain ⟨rest, hd⟩ := decode_of_decodeTableWord h
  rw [← window_withFetchWord hm] at hd
  exact stepRunsDecodedInstruction _ i rest (s.withFetchWord_run nbits w) hd

end Sys2Proof.Machine
